-- ==== Sys2Proof/Word.lean ====
section
/-! DEFINITION. The machine word (00_scope.md R10, R11): XLEN bits, its two readings, and the narrowing of an integer.
`XLEN` is an argument of everything here (R7), written `xlen`. -/

namespace Sys2Proof

/-- A word is an XLEN-bit bit-vector (R10). -/
abbrev Word (xlen : Nat) := BitVec xlen

/-- `ux(w)`: the unsigned value of a word (R11). -/
abbrev ux {xlen : Nat} (w : Word xlen) : Nat := w.toNat

/-- `sx(w)`: the two's-complement signed value of a word (R11). -/
abbrev sx {xlen : Nat} (w : Word xlen) : Int := w.toInt

/-- `word(v)`: the word whose unsigned value is `v mod 2^XLEN` (R11). -/
abbrev word (xlen : Nat) (v : Int) : Word xlen := BitVec.ofInt xlen v

/-- `-2^(XLEN-1) <= v < 2^(XLEN-1)`: the values `sx` takes (R11). -/
def inSignedRange (xlen : Nat) (v : Int) : Bool := decide (-(2 ^ (xlen - 1)) ≤ v) && decide (v < 2 ^ (xlen - 1))

/-- `RW = 10 + 3*XLEN` (30_encoding.md R103): the width of a record word. -/
abbrev RW (xlen : Nat) : Nat := 10 + 3 * xlen

/-- A record word (30_encoding.md R103). -/
abbrev RecordWord (xlen : Nat) := BitVec (RW xlen)

end Sys2Proof
end

