-- ==== Sys2Proof/Config.lean ====
section
/-! DEFINITION. The implementation parameters of 00_scope.md R7. The source gives no value for any of them, so they are
data of a machine that no step changes, and not constants: `XLEN` is a field of State and the index of every word type,
the others are its field `params`. -/

namespace Sys2Proof

/-- The parameters of R7 of a machine whose width is `xlen` (log 1, 2). `N` is the length of the program store and
`max_cycles` a run input, both in State. -/
structure Params (xlen : Nat) where
  /-- `NUM_REGS`: number of general registers. -/
  numRegs : Nat
  /-- `MEM_SIZE`: number of words of main memory. -/
  memSize : Nat
  /-- `BLOCK_SIZE`: words per cache line. -/
  blockSize : Nat
  /-- `NUM_LINES`: number of cache lines. -/
  numLines : Nat
  /-- `SENTINEL_REG`: the register the interrupt service routine writes. -/
  sentinelReg : Nat
  /-- `SENTINEL_VALUE`: the word it writes. -/
  sentinelValue : Word xlen
  /-- `ISR_ADDR`: the value PC takes inside an interrupt cycle. -/
  isrAddr : Word xlen
  deriving DecidableEq, Repr

/-- `XLEN` in the "test value" column of R7. DESIGN CHOICE (log 1): the width of `State.reset`, and of the words of
spec/opcode_table.json. -/
abbrev testXLEN : Nat := 32

/-- The other values of the "test value" column of R7. DESIGN CHOICE (log 2): the values `State.reset` uses. -/
def Params.test : Params testXLEN :=
  { numRegs := 8, memSize := 64, blockSize := 4, numLines := 4,
    sentinelReg := 7, sentinelValue := 999, isrAddr := 1000 }

/-- The cycle cap `State.reset` uses. DESIGN CHOICE (log 5): the value of 95_test_vectors.md section 0. -/
def testMaxCycles : Nat := 1000

/-- What a data address nothing has written reads as: 0, the default of `init_mem` when the host gives none
(10_state.md R55, 92_eei_decisions.md D24). -/
def unlistedWord {xlen : Nat} : Word xlen := 0

end Sys2Proof
end

