-- ==== Sys2Proof/Syntax.lean ====
section
/-! DEFINITION. The instruction set (30_encoding.md R100 to R102, R107) and the two forms a program element has before it
is validated: a raw record (R100, R101, R114) and a record word (R103). -/

namespace Sys2Proof

/-- A validated operand (30_encoding.md R101): a register index, or an immediate integer. A well-formed immediate is the
signed value of a word, and the machine of width XLEN holds it as the word `word(v)` (R109; log 20). -/
inductive Operand where
  | reg (k : Nat)
  | imm (v : Int)
  deriving DecidableEq, Repr

/-- One constructor per opcode, with exactly the operand shape R107 gives it. Instructions are the records of R100, which
name no width; a width comes in with their record words and with the machine that runs them. -/
inductive Instr where
  | nop
  | add (rd : Nat) (a b : Operand)
  | sub (rd : Nat) (a b : Operand)
  | mul (rd : Nat) (a b : Operand)
  | and (rd : Nat) (a b : Operand)
  | shl (rd : Nat) (a b : Operand)
  | mov (rd : Nat) (a : Operand)
  | load (rd : Nat) (a : Operand)
  | store (rs : Nat) (a : Operand)
  | cmp (a b : Operand)
  | jmp (t : Int)
  | jz (t : Int)
  | jnz (t : Int)
  | je (t : Int)
  deriving DecidableEq, Repr

/-- The 14 opcodes (30_encoding.md R102). -/
inductive Opcode where
  | nop | add | sub | mul | and | shl | mov | load | store | cmp | jmp | jz | jnz | je
  deriving DecidableEq, Repr

/-- An operand of a record before validation (R101, R110, R114): a register identifier (`Rk`, `PC` or `Z`), an
immediate integer of any size, or assembler text that is none of these. -/
inductive RawOperand where
  | reg (k : Nat)
  | pc
  | zFlag
  | imm (v : Int)
  | unreadable (text : List Char)
  deriving DecidableEq, Repr

/-- How a record names its operation (30_encoding.md R102, R114): a numeric opcode code or a mnemonic's text. -/
inductive OpName where
  | code (c : Nat)
  | text (t : List Char)
  deriving DecidableEq, Repr

/-- The instruction record `{op, operands}` (R100), not yet validated. -/
structure Record where
  op : OpName
  operands : List RawOperand
  deriving DecidableEq, Repr

/-- One element of the program store (10_state.md R47, R49): a record word of the hardware store (R103), or a record. -/
inductive ProgItem (xlen : Nat) where
  | word (w : RecordWord xlen)
  | record (r : Record)
  deriving DecidableEq, Repr

end Sys2Proof
end

