-- ==== Sys2Proof/Machine/FaultRecord.lean ====
section
/-! DEFINITION. The fault taxonomy and the fault record (60_exceptions.md R260, R264). -/

namespace Sys2Proof.Machine

/-- The six kinds of fatal error (R260). -/
inductive FaultKind where
  | unknownOpcode
  | invalidRegister
  | addressOutOfRange
  | malformedOperands
  | immediateOutOfRange
  | negativeShift
  deriving DecidableEq, Repr

/-- The register identifier an `InvalidRegister` reports (R260, 30_encoding.md R110). -/
inductive RegName where
  | index (k : Nat)
  | pc
  | zFlag
  deriving DecidableEq, Repr

/-- The `info` column of R260, less `idx`, which the record carries. -/
inductive FaultInfo where
  | opcode (opc : OpName)
  | register (pos : Nat) (reg : RegName)
  | address (addr : Int)
  | immediate (pos : Nat) (value : Int)
  | amount (s : Int)
  | nothing
  deriving DecidableEq, Repr

/-- The fault record (R264). `code` is a function of `kind`. -/
structure FaultRecord where
  kind : FaultKind
  idx : Nat
  info : FaultInfo
  cycle : Option Nat
  deriving DecidableEq, Repr

/-- The numeric code of a kind (R260, 92_eei_decisions.md D43). -/
def FaultKind.code : FaultKind → Nat
  | .unknownOpcode => 1
  | .invalidRegister => 2
  | .addressOutOfRange => 3
  | .malformedOperands => 4
  | .immediateOutOfRange => 5
  | .negativeShift => 6

/-- The `code` field of the record (R264). -/
def FaultRecord.code (r : FaultRecord) : Nat := r.kind.code

/-- A static fault at program index `idx` (R261): its `cycle` is none (R264). -/
def staticFault (kind : FaultKind) (idx : Nat) (info : FaultInfo) : FaultRecord :=
  { kind := kind, idx := idx, info := info, cycle := none }

end Sys2Proof.Machine
end

