-- ==== Sys2Proof/Machine/State.lean ====
section
/-! DEFINITION. The machine state (10_state.md R30 to R55), its reset value, and the reasons a step can stop. Every field is
plain data. `CoreState xlen` is the state of a machine of width XLEN; `State` is a machine of any width. The setters name
each update once; their projections are in Laws/State.lean. -/

namespace Sys2Proof.Machine

/-! ### Pieces of the state -/

/-- The IF latch's entry (R42). -/
structure IfEntry where
  /-- Program index of the instruction. -/
  idx : Nat
  /-- The instruction record fetched from it. -/
  instr : Instr
  deriving DecidableEq, Repr

/-- The ID latch's entry (R42). Its `op` and `operands` are those of `instr` (log 18). -/
structure IdEntry (xlen : Nat) where
  idx : Nat
  instr : Instr
  dest : Option Nat
  srcs : List Operand
  vals : List (Word xlen)
  target : Option (Word xlen)
  hazard : Bool
  deriving DecidableEq, Repr

/-- The entry of the EX, MEM and WB latches (R42). Its `op` and `operands` are those of `instr` (log 18). -/
structure ExEntry (xlen : Nat) where
  idx : Nat
  instr : Instr
  dest : Option Nat
  result : Option (Word xlen)
  sval : Option (Word xlen)
  deriving DecidableEq, Repr

/-- A cache line (R46, 20_memory.md R77). -/
structure Line (xlen : Nat) where
  valid : Bool
  tag : Nat
  data : List (Word xlen)
  deriving DecidableEq, Repr

/-- Main memory (R45): (word address, word) pairs with strictly rising addresses and no entry equal to
`unlistedWord` (log 3). -/
abbrev Memory (xlen : Nat) := List (Nat × Word xlen)

/-- The states of the interrupt controller (60_exceptions.md R272): `istate.handling`. -/
inductive Mode where
  | normal
  | handling
  deriving DecidableEq, Repr

/-- The interrupt controller's state (R39). -/
structure InterruptState (xlen : Nat) where
  mode : Mode
  savedPC : Option (Word xlen)
  deriving DecidableEq, Repr

/-- The metrics record (70_reset_and_hazards.md R307): the five counters of R39. -/
structure Metrics where
  cycles : Nat
  stalls : Nat
  cacheHits : Nat
  cacheMisses : Nat
  interrupts : Nat
  deriving DecidableEq, Repr

/-- The device as the core sees it (R48). -/
structure Device (xlen : Nat) where
  ready : Bool
  value : Word xlen
  deriving DecidableEq, Repr

/-- Where a run stands: under way, or ended with one of the outcomes of 70_reset_and_hazards.md R304. `faulted` and
`refused` are the outcome Fault with the record the `fault` output holds (R56, 60_exceptions.md R261, R264). -/
inductive RunStatus where
  | running
  | done
  | capped
  | faulted (r : FaultRecord)
  | refused (r : FaultRecord)
  deriving DecidableEq, Repr

/-- The five stage functions of a cycle (40_pipeline.md R130). -/
inductive Stage where
  | writeBack
  | memoryAccess
  | execute
  | decode
  | fetch
  deriving DecidableEq, Repr

/-- THE MODEL'S OWN (log 6), no state of the spec: where in the cycle's sequence of statements the machine is
(00_scope.md R16), and the signal `fetch_en` of that cycle (40_pipeline.md R149). Between cycles it is at rest. -/
structure Signals where
  stage : Stage
  fetchEn : Bool
  deriving DecidableEq, Repr

/-- The signals between two cycles. -/
def Signals.rest : Signals := { stage := .fetch, fetchEn := true }

/-! ### The state -/

/-- The machine of width XLEN: the tuple of R54, then the fixed part of a run, the device, the run's inputs and outcome,
and the model's own signals. -/
structure CoreState (xlen : Nat) where
  /-- The parameters of 00_scope.md R7 but XLEN, fixed for a run. -/
  params : Params xlen
  /-- The program store (R47), fixed for a run; its length is `N`. -/
  prog : List (ProgItem xlen)
  /-- x[0 .. NUM_REGS-1] (R30). -/
  regs : List (Word xlen)
  /-- The zero flag (R37). -/
  z : Bool
  /-- The program counter (R34), read as a signed word. -/
  pc : Word xlen
  /-- The latches IF, ID, EX, MEM and WB (R41); none is the bubble. -/
  ifL : Option IfEntry
  idL : Option (IdEntry xlen)
  exL : Option (ExEntry xlen)
  memL : Option (ExEntry xlen)
  wbL : Option (ExEntry xlen)
  /-- The cache lines C[0 .. NUM_LINES-1] (R46). -/
  cache : List (Line xlen)
  /-- Main memory (R45). -/
  main : Memory xlen
  /-- The interrupt controller (R39). -/
  istate : InterruptState xlen
  /-- The counters (R39). -/
  metrics : Metrics
  /-- The external device (R48). -/
  dev : Device xlen
  /-- The host's trigger schedule (70_reset_and_hazards.md R304): cycle index and value. -/
  triggers : List (Nat × Word xlen)
  /-- The run's cycle cap (R304, R306). -/
  maxCycles : Nat
  /-- Where the run stands (R304, R309). -/
  status : RunStatus
  /-- The model's own signals (log 6). -/
  signals : Signals
  deriving DecidableEq, Repr

/-- The machine: its width XLEN (00_scope.md R7), which no step changes, and its state at that width (log 1). -/
structure State where
  /-- `XLEN`: the width of every register, memory word and immediate. -/
  xlen : Nat
  /-- The state at that width. -/
  core : CoreState xlen
  deriving DecidableEq, Repr

/-- Why the machine stops with a fault. -/
inductive Fault where
  /-- The spec's `AddressOutOfRange` (60_exceptions.md R262): LOAD or STORE in Memory-access. A step turns it into the
  run's outcome Fault (R265), so `step` never answers with it. Safe: the spec's own fault. -/
  | addressOutOfRange (idx : Nat) (addr : Int)
  /-- The spec's `NegativeShift` (R263): SHL in Execute. A step turns it into the run's outcome Fault, so `step` never
  answers with it. Safe: the spec's own fault. -/
  | negativeShift (idx : Nat) (amount : Int)
  /-- THE MODEL'S OWN (log 9): a register that does not exist is read by Decode, written by Write-back or by the interrupt
  routine. Only in states no run reaches: validation refuses such a program (30_encoding.md R110). Safe. -/
  | noSuchRegister (k : Nat)
  /-- THE MODEL'S OWN (log 9): a latch entry does not fit its instruction (a missing value or result, or a JMP past
  Decode). Only in states no run reaches. Safe. -/
  | latchMismatch
  /-- THE MODEL'S OWN (log 9): Fetch reads an element that static validation refuses. Only in states no run reaches, since
  a refused program runs no cycle (60_exceptions.md R261). Safe. -/
  | unvalidatedRecord (r : FaultRecord)
  deriving DecidableEq, Repr

/-- Why the model gives no next state. -/
inductive Refusal where
  /-- Raised by an arm of `exec` for an instruction with no meaning yet; no arm raises it. Safe. -/
  | notModelled (mnemonic : String)
  deriving DecidableEq, Repr

/-- The outcome of one step of a machine, whatever its width. -/
abbrev Result := Host.Outcome State Fault Refusal

/-- The outcome of a part of a step of a machine of width XLEN. -/
abbrev Out (xlen : Nat) := Host.Outcome (CoreState xlen) Fault Refusal

/-! ### Setters -/

variable {xlen : Nat}

def CoreState.setRegs (s : CoreState xlen) (r : List (Word xlen)) : CoreState xlen := { s with regs := r }
def CoreState.setZ (s : CoreState xlen) (b : Bool) : CoreState xlen := { s with z := b }
def CoreState.setPc (s : CoreState xlen) (w : Word xlen) : CoreState xlen := { s with pc := w }
def CoreState.setIF (s : CoreState xlen) (e : Option IfEntry) : CoreState xlen := { s with ifL := e }
def CoreState.setID (s : CoreState xlen) (e : Option (IdEntry xlen)) : CoreState xlen := { s with idL := e }
def CoreState.setEX (s : CoreState xlen) (e : Option (ExEntry xlen)) : CoreState xlen := { s with exL := e }
def CoreState.setMEM (s : CoreState xlen) (e : Option (ExEntry xlen)) : CoreState xlen := { s with memL := e }
def CoreState.setWB (s : CoreState xlen) (e : Option (ExEntry xlen)) : CoreState xlen := { s with wbL := e }
def CoreState.setCache (s : CoreState xlen) (c : List (Line xlen)) : CoreState xlen := { s with cache := c }
def CoreState.setMain (s : CoreState xlen) (m : Memory xlen) : CoreState xlen := { s with main := m }
def CoreState.setIstate (s : CoreState xlen) (i : InterruptState xlen) : CoreState xlen := { s with istate := i }
def CoreState.setMetrics (s : CoreState xlen) (m : Metrics) : CoreState xlen := { s with metrics := m }
def CoreState.setDev (s : CoreState xlen) (d : Device xlen) : CoreState xlen := { s with dev := d }
def CoreState.setProg (s : CoreState xlen) (p : List (ProgItem xlen)) : CoreState xlen := { s with prog := p }
def CoreState.setStatus (s : CoreState xlen) (r : RunStatus) : CoreState xlen := { s with status := r }
def CoreState.setSignals (s : CoreState xlen) (g : Signals) : CoreState xlen := { s with signals := g }

/-- The state with a stage function of the cycle running (log 6). -/
def CoreState.atStage (s : CoreState xlen) (st : Stage) : CoreState xlen :=
  s.setSignals { stage := st, fetchEn := s.signals.fetchEn }

/-- The state with the signal `fetch_en` set (40_pipeline.md R149). -/
def CoreState.setFetchEn (s : CoreState xlen) (b : Bool) : CoreState xlen :=
  s.setSignals { stage := s.signals.stage, fetchEn := b }

/-! ### Reset -/

/-- A cache line after reset (R55): invalid, tag 0, every data word 0. -/
def resetLine (p : Params xlen) : Line xlen := { valid := false, tag := 0, data := List.replicate p.blockSize 0 }

/-- The state right after reset (R55, 70_reset_and_hazards.md R300), when the host gives no program, no initial
registers and no initial memory. `assertReset` is the same for any inputs of a run. -/
def CoreState.reset : CoreState testXLEN :=
  { params := Params.test, prog := [],
    regs := List.replicate Params.test.numRegs 0, z := false, pc := 0,
    ifL := none, idL := none, exL := none, memL := none, wbL := none,
    cache := List.replicate Params.test.numLines (resetLine Params.test), main := [],
    istate := { mode := .normal, savedPC := none },
    metrics := { cycles := 0, stalls := 0, cacheHits := 0, cacheMisses := 0, interrupts := 0 },
    dev := { ready := false, value := 0 }, triggers := [], maxCycles := testMaxCycles,
    status := .running, signals := Signals.rest }

/-- The machine right after reset, with the spec's test value of XLEN (log 1). `resetMachine` is a machine of any width. -/
def State.reset : State := { xlen := testXLEN, core := CoreState.reset }

end Sys2Proof.Machine
end

