-- ==== Sys2Proof/Machine/Flags.lean ====
section
/-! DEFINITION. The zero flag: what writes it computes (10_state.md R37), and the conditions that read it
(44_control.md R232 to R235). Z is the only flag. -/

namespace Sys2Proof.Machine

variable {xlen : Nat}

/-- `Z <- (result = 0) ? 1 : 0` (41_arithmetic.md R180). -/
def zeroFlag (result : Word xlen) : Bool := decide (result = 0)

/-- `Z <- (va = vb) ? 1 : 0` (43_compare.md R220). -/
def equalFlag (va vb : Word xlen) : Bool := decide (va = vb)

/-- JMP is always taken (R232). -/
def alwaysTaken (_ : CoreState xlen) : Bool := true

/-- JZ is taken when Z = 1 (R233). -/
def takenIfZero (s : CoreState xlen) : Bool := s.z

/-- JNZ is taken when Z = 0 (R234). -/
def takenIfNotZero (s : CoreState xlen) : Bool := !s.z

/-- JE is taken when Z = 1 (R235). -/
def takenIfEqual (s : CoreState xlen) : Bool := s.z

end Sys2Proof.Machine
end

