-- ==== Sys2Proof/WellFormed.lean ====
section
/-! DEFINITION. When an instruction, and a set of parameters, is well formed. -/

namespace Sys2Proof

/-- A register operand is valid when its index is below NUM_REGS (30_encoding.md R110), an immediate when a word holds it
(R109). -/
def Operand.wf (xlen numRegs : Nat) : Operand → Bool
  | .reg k => decide (k < numRegs)
  | .imm v => inSignedRange xlen v

/-- Every register an instruction names exists (R110) and every immediate is in range (R109). The shape (R107) holds of
every term of `Instr` by its type. -/
def Instr.wf (xlen numRegs : Nat) : Instr → Bool
  | .nop => true
  | .add rd a b => decide (rd < numRegs) && a.wf xlen numRegs && b.wf xlen numRegs
  | .sub rd a b => decide (rd < numRegs) && a.wf xlen numRegs && b.wf xlen numRegs
  | .mul rd a b => decide (rd < numRegs) && a.wf xlen numRegs && b.wf xlen numRegs
  | .and rd a b => decide (rd < numRegs) && a.wf xlen numRegs && b.wf xlen numRegs
  | .shl rd a b => decide (rd < numRegs) && a.wf xlen numRegs && b.wf xlen numRegs
  | .mov rd a => decide (rd < numRegs) && a.wf xlen numRegs
  | .load rd a => decide (rd < numRegs) && a.wf xlen numRegs
  | .store rs a => decide (rs < numRegs) && a.wf xlen numRegs
  | .cmp a b => a.wf xlen numRegs && b.wf xlen numRegs
  | .jmp t => inSignedRange xlen t
  | .jz t => inSignedRange xlen t
  | .jnz t => inSignedRange xlen t
  | .je t => inSignedRange xlen t

/-- The constraints of 00_scope.md R7 on the parameters (log 16: assumed of a machine, not checked by a step). -/
def Params.wf {xlen : Nat} (p : Params xlen) : Bool :=
  decide (2 ≤ xlen) && decide (1 ≤ p.numRegs) && decide (1 ≤ p.blockSize) && decide (1 ≤ p.numLines)
    && decide (1 ≤ p.memSize) && decide (p.memSize % p.blockSize = 0) && decide (p.memSize ≤ 2 ^ (xlen - 1))
    && decide (p.sentinelReg < p.numRegs)

/-- The bound on the program's length (R7, 92_eei_decisions.md D37). -/
def progLenOk (xlen n : Nat) : Bool := decide (n ≤ 2 ^ (xlen - 1) - 1)

end Sys2Proof
end

