-- ==== Sys2Proof/Decode.lean ====
section
/-! DEFINITION. Decoding and static validation of a program element (30_encoding.md R102 to R112), and the encoder. Total
on every record word and every record; each refusal carries the fault the spec names. -/

namespace Sys2Proof

open Sys2Proof.Machine

/-! ### Opcodes -/

/-- The opcode code table (R102). -/
def Opcode.code : Opcode → Nat
  | .nop => 0 | .add => 1 | .sub => 2 | .mul => 3 | .and => 4 | .shl => 5 | .mov => 6
  | .load => 7 | .store => 8 | .cmp => 9 | .jmp => 10 | .jz => 11 | .jnz => 12 | .je => 13

/-- The opcode of a code; 14 and 15 are reserved (R102, R112). -/
def opcodeOfCode : Nat → Option Opcode
  | 0 => some .nop | 1 => some .add | 2 => some .sub | 3 => some .mul | 4 => some .and | 5 => some .shl
  | 6 => some .mov | 7 => some .load | 8 => some .store | 9 => some .cmp | 10 => some .jmp | 11 => some .jz
  | 12 => some .jnz | 13 => some .je | _ => none

/-- The opcode of a mnemonic, upper-case and matched exactly (R114). -/
def opcodeOfText : List Char → Option Opcode
  | ['N', 'O', 'P'] => some .nop
  | ['A', 'D', 'D'] => some .add
  | ['S', 'U', 'B'] => some .sub
  | ['M', 'U', 'L'] => some .mul
  | ['A', 'N', 'D'] => some .and
  | ['S', 'H', 'L'] => some .shl
  | ['M', 'O', 'V'] => some .mov
  | ['L', 'O', 'A', 'D'] => some .load
  | ['S', 'T', 'O', 'R', 'E'] => some .store
  | ['C', 'M', 'P'] => some .cmp
  | ['J', 'M', 'P'] => some .jmp
  | ['J', 'Z'] => some .jz
  | ['J', 'N', 'Z'] => some .jnz
  | ['J', 'E'] => some .je
  | _ => none

/-- The opcode a record names, if any (R102, R112). -/
def opcodeOf : OpName → Option Opcode
  | .code c => opcodeOfCode c
  | .text t => opcodeOfText t

/-- The opcode of an instruction. -/
def Instr.opcode : Instr → Opcode
  | .nop => .nop
  | .add _ _ _ => .add
  | .sub _ _ _ => .sub
  | .mul _ _ _ => .mul
  | .and _ _ _ => .and
  | .shl _ _ _ => .shl
  | .mov _ _ => .mov
  | .load _ _ => .load
  | .store _ _ => .store
  | .cmp _ _ => .cmp
  | .jmp _ => .jmp
  | .jz _ => .jz
  | .jnz _ => .jnz
  | .je _ => .je

/-- The operand list of an instruction's record (R100, R107): the `operands` field of its latch entries
(10_state.md R42). -/
def Instr.operands : Instr → List Operand
  | .nop => []
  | .add rd a b => [.reg rd, a, b]
  | .sub rd a b => [.reg rd, a, b]
  | .mul rd a b => [.reg rd, a, b]
  | .and rd a b => [.reg rd, a, b]
  | .shl rd a b => [.reg rd, a, b]
  | .mov rd a => [.reg rd, a]
  | .load rd a => [.reg rd, a]
  | .store rs a => [.reg rs, a]
  | .cmp a b => [a, b]
  | .jmp t => [.imm t]
  | .jz t => [.imm t]
  | .jnz t => [.imm t]
  | .je t => [.imm t]

/-! ### Shapes -/

/-- The operand classes of the shape table (R107). -/
inductive OperandClass where
  | r
  | i
  | ri
  deriving DecidableEq, Repr

/-- The shape of each opcode (R107). -/
def shapeOf : Opcode → List OperandClass
  | .nop => []
  | .add => [.r, .ri, .ri]
  | .sub => [.r, .ri, .ri]
  | .mul => [.r, .ri, .ri]
  | .and => [.r, .ri, .ri]
  | .shl => [.r, .ri, .ri]
  | .mov => [.r, .ri]
  | .load => [.r, .ri]
  | .store => [.r, .ri]
  | .cmp => [.ri, .ri]
  | .jmp => [.i]
  | .jz => [.i]
  | .jnz => [.i]
  | .je => [.i]

/-- Is the operand a register identifier? `PC` and `Z` are (R110), so naming one where a register may stand is
`InvalidRegister` and not `MalformedOperands` (log 14). -/
def RawOperand.isRegister : RawOperand → Bool
  | .reg _ => true
  | .pc => true
  | .zFlag => true
  | .imm _ => false
  | .unreadable _ => false

/-- Is the operand an immediate? -/
def RawOperand.isImmediate : RawOperand → Bool
  | .imm _ => true
  | _ => false

/-- Does an operand fit a class of the shape table? -/
def fitsClass : OperandClass → RawOperand → Bool
  | .r, o => o.isRegister
  | .i, o => o.isImmediate
  | .ri, o => o.isRegister || o.isImmediate

/-- Do the operands have a shape: the same count, each of its class (R107)? -/
def fitsShape : List OperandClass → List RawOperand → Bool
  | [], [] => true
  | c :: cs, o :: os => fitsClass c o && fitsShape cs os
  | _, _ => false

/-! ### The four checks of static validation (R111) -/

/-- Is a register operand valid (R110)? The name it is reported under when it is not. -/
def badRegister (numRegs : Nat) : RawOperand → Option RegName
  | .reg k => if k < numRegs then none else some (.index k)
  | .pc => some .pc
  | .zFlag => some .zFlag
  | .imm _ => none
  | .unreadable _ => none

/-- The first invalid register from operand position `pos` on (log 14). -/
def firstBadRegister (numRegs : Nat) : Nat → List RawOperand → Option (Nat × RegName)
  | _, [] => none
  | pos, o :: os =>
    match badRegister numRegs o with
    | some r => some (pos, r)
    | none => firstBadRegister numRegs (pos + 1) os

/-- `-2^(XLEN-1) <= v < 2^(XLEN-1)` (R109). -/
def immediateInRange (xlen : Nat) (v : Int) : Bool := inSignedRange xlen v

/-- Is an immediate operand out of range (R109)? -/
def badImmediate (xlen : Nat) : RawOperand → Option Int
  | .imm v => if immediateInRange xlen v then none else some v
  | _ => none

/-- The first immediate out of range from operand position `pos` on. -/
def firstBadImmediate (xlen : Nat) : Nat → List RawOperand → Option (Nat × Int)
  | _, [] => none
  | pos, o :: os =>
    match badImmediate xlen o with
    | some v => some (pos, v)
    | none => firstBadImmediate xlen (pos + 1) os

/-- The validated form of a source operand: an immediate is the integer itself, which the machine reads as the word `word(v)`
(R101, R109). -/
def RawOperand.toOperand : RawOperand → Option Operand
  | .reg k => some (.reg k)
  | .imm v => some (.imm v)
  | _ => none

/-- An instruction from a register and two source operands. -/
def build3 (f : Nat → Operand → Operand → Instr) : List RawOperand → Option Instr
  | [.reg rd, a, b] =>
    match a.toOperand, b.toOperand with
    | some a', some b' => some (f rd a' b')
    | _, _ => none
  | _ => none

/-- An instruction from a register and one source operand. -/
def build2 (f : Nat → Operand → Instr) : List RawOperand → Option Instr
  | [.reg rd, a] =>
    match a.toOperand with
    | some a' => some (f rd a')
    | none => none
  | _ => none

/-- A compare from two source operands. -/
def buildCompare (f : Operand → Operand → Instr) : List RawOperand → Option Instr
  | [a, b] =>
    match a.toOperand, b.toOperand with
    | some a', some b' => some (f a' b')
    | _, _ => none
  | _ => none

/-- A branch from its target immediate (R107). -/
def buildBranch (f : Int → Instr) : List RawOperand → Option Instr
  | [.imm t] => some (f t)
  | _ => none

/-- The instruction a record stands for, once its shape is right (R106, R107). -/
def build : Opcode → List RawOperand → Option Instr
  | .nop, os => if os.isEmpty then some .nop else none
  | .add, os => build3 .add os
  | .sub, os => build3 .sub os
  | .mul, os => build3 .mul os
  | .and, os => build3 .and os
  | .shl, os => build3 .shl os
  | .mov, os => build2 .mov os
  | .load, os => build2 .load os
  | .store, os => build2 .store os
  | .cmp, os => buildCompare .cmp os
  | .jmp, os => buildBranch .jmp os
  | .jz, os => buildBranch .jz os
  | .jnz, os => buildBranch .jnz os
  | .je, os => buildBranch .je os

/-- Checks (2) to (4) of R111, in that order, on a record whose opcode is known. -/
def validateOperands (xlen numRegs idx : Nat) (op : Opcode) (os : List RawOperand) : Except FaultRecord Instr :=
  if fitsShape (shapeOf op) os then
    match firstBadRegister numRegs 0 os with
    | some (pos, r) => .error (staticFault .invalidRegister idx (.register pos r))
    | none =>
      match firstBadImmediate xlen 0 os with
      | some (pos, v) => .error (staticFault .immediateOutOfRange idx (.immediate pos v))
      | none =>
        match build op os with
        | some i => .ok i
        | none => .error (staticFault .malformedOperands idx .nothing)
  else .error (staticFault .malformedOperands idx .nothing)

/-- Static validation of a record at program index `idx` (R111). -/
def validateRecord (xlen numRegs idx : Nat) (r : Record) : Except FaultRecord Instr :=
  match opcodeOf r.op with
  | none => .error (staticFault .unknownOpcode idx (.opcode r.op))
  | some op => validateOperands xlen numRegs idx op r.operands

/-! ### The record word (R103 to R106) -/

/-- Field `opc`, bits [3:0]. -/
def opcField {xlen : Nat} (w : RecordWord xlen) : BitVec 4 := w.extractLsb' 0 4

/-- Field `k0`, bits [5:4]. -/
def kind0 {xlen : Nat} (w : RecordWord xlen) : BitVec 2 := w.extractLsb' 4 2

/-- Field `k1`, bits [7:6]. -/
def kind1 {xlen : Nat} (w : RecordWord xlen) : BitVec 2 := w.extractLsb' 6 2

/-- Field `k2`, bits [9:8]. -/
def kind2 {xlen : Nat} (w : RecordWord xlen) : BitVec 2 := w.extractLsb' 8 2

/-- Field `v0`, bits [10+XLEN-1:10]. -/
def value0 {xlen : Nat} (w : RecordWord xlen) : Word xlen := w.extractLsb' 10 xlen

/-- Field `v1`, bits [10+2*XLEN-1:10+XLEN]. -/
def value1 {xlen : Nat} (w : RecordWord xlen) : Word xlen := w.extractLsb' (10 + xlen) xlen

/-- Field `v2`, bits [10+3*XLEN-1:10+2*XLEN]. -/
def value2 {xlen : Nat} (w : RecordWord xlen) : Word xlen := w.extractLsb' (10 + 2 * xlen) xlen

/-- The kind codes (R103). -/
def kindNone : BitVec 2 := 0b00#2
def kindReg : BitVec 2 := 0b01#2
def kindImm : BitVec 2 := 0b10#2

/-- A slot of the record word (R104, R105). -/
inductive Slot where
  | empty
  | operand (o : RawOperand)
  | malformed
  deriving DecidableEq, Repr

/-- What a slot holds: a register index `ux(v)`, an immediate `sx(v)`, nothing when its value is zero too; kind `11`
and a none slot with a nonzero value are malformed (R104, R105). -/
def slotOf {xlen : Nat} (k : BitVec 2) (v : Word xlen) : Slot :=
  if k = kindNone then (if v = 0 then .empty else .malformed)
  else if k = kindReg then .operand (.reg (ux v))
  else if k = kindImm then .operand (.imm (sx v))
  else .malformed

/-- The operand list of three slots: the leading operands (R106); a malformed slot, or a none slot before a used one,
gives none (R105). -/
def operandsOfSlots : Slot → Slot → Slot → Option (List RawOperand)
  | .empty, .empty, .empty => some []
  | .operand a, .empty, .empty => some [a]
  | .operand a, .operand b, .empty => some [a, b]
  | .operand a, .operand b, .operand c => some [a, b, c]
  | _, _, _ => none

/-- The operand list of a record word, none when the word is malformed (R105, R106). -/
def wordOperands {xlen : Nat} (w : RecordWord xlen) : Option (List RawOperand) :=
  operandsOfSlots (slotOf (kind0 w) (value0 w)) (slotOf (kind1 w) (value1 w)) (slotOf (kind2 w) (value2 w))

/-- Decode a record word at program index `idx` (R106), with the checks of R111 in their order: the opcode, the word's
form and its shape, the registers. -/
def decodeWord {xlen : Nat} (numRegs idx : Nat) (w : RecordWord xlen) : Except FaultRecord Instr :=
  match opcodeOfCode (opcField w).toNat with
  | none => .error (staticFault .unknownOpcode idx (.opcode (.code (opcField w).toNat)))
  | some op =>
    match wordOperands w with
    | none => .error (staticFault .malformedOperands idx .nothing)
    | some os => validateOperands xlen numRegs idx op os

/-- Validate and decode one element of the program store (R106, R111). -/
def decodeItem {xlen : Nat} (numRegs idx : Nat) : ProgItem xlen → Except FaultRecord Instr
  | .word w => decodeWord numRegs idx w
  | .record r => validateRecord xlen numRegs idx r

/-- The first static fault of a program, from index `idx` on: the lowest failing index reports
(R111, 60_exceptions.md R268). -/
def firstStaticFault {xlen : Nat} (numRegs : Nat) : Nat → List (ProgItem xlen) → Option FaultRecord
  | _, [] => none
  | idx, p :: ps =>
    match decodeItem numRegs idx p with
    | .error r => some r
    | .ok _ => firstStaticFault numRegs (idx + 1) ps

/-- The record word whose bits are the number `w`: none when a bit above bit RW-1 is set (log 12). -/
def recordWordOfBits (xlen nbits w : Nat) : Option (RecordWord xlen) :=
  if w % 2 ^ nbits < 2 ^ RW xlen then some (BitVec.ofNat (RW xlen) (w % 2 ^ nbits)) else none

/-- The instruction the decoder reads from the bits `w` of a table row, with the width the table is written for
and the register count of `Params.test` (log 12). -/
def decodeTableWord (nbits w : Nat) : Option Instr :=
  match recordWordOfBits testXLEN nbits w with
  | none => none
  | some rw =>
    match decodeWord Params.test.numRegs 0 rw with
    | .ok i => some i
    | .error _ => none

/-! ### The encoder (R103, R106, R107) -/

/-- The kind code of an operand (R103). -/
def Operand.kind : Operand → BitVec 2
  | .reg _ => kindReg
  | .imm _ => kindImm

/-- The slot value of an operand (R104). DESIGN CHOICE (log 20): R7 bounds NUM_REGS only from below, and a register index
of 2^XLEN or more fits no slot value; its word is then truncated, and reads as another register. -/
def Operand.slotValue (xlen : Nat) : Operand → Word xlen
  | .reg k => BitVec.ofNat xlen k
  | .imm v => word xlen v

/-- A record word from its fields, the most significant first (R103). -/
def packWord {xlen : Nat} (opc : BitVec 4) (k0 k1 k2 : BitVec 2) (v0 v1 v2 : Word xlen) : RecordWord xlen :=
  (v2 ++ v1 ++ v0 ++ k2 ++ k1 ++ k0 ++ opc).cast (by simp only [RW]; omega)

/-- A record word from an opcode code and up to three operands; the slots after the last operand are none slots
(R103, R104). -/
def packOperands (xlen : Nat) (opc : BitVec 4) : List Operand → RecordWord xlen
  | [] => packWord opc kindNone kindNone kindNone 0 0 0
  | [a] => packWord opc a.kind kindNone kindNone (a.slotValue xlen) 0 0
  | [a, b] => packWord opc a.kind b.kind kindNone (a.slotValue xlen) (b.slotValue xlen) 0
  | a :: b :: c :: _ =>
    packWord opc a.kind b.kind c.kind (a.slotValue xlen) (b.slotValue xlen) (c.slotValue xlen)

/-- The record word of an instruction at width XLEN (R106): its opcode's code and its operand list. -/
def encode (xlen : Nat) (i : Instr) : RecordWord xlen := packOperands xlen (BitVec.ofNat 4 i.opcode.code) i.operands

end Sys2Proof
end

