-- ==== Sys2Proof/Machine/Ops.lean ====
section
/-! DEFINITION. The named operations over memory, the cache, the registers, the counters, the device and the latches; the
interrupt (the one preemption the spec describes) and its return; raising a dynamic fault. -/

namespace Sys2Proof.Machine

variable {xlen : Nat}

/-! ### Main memory (10_state.md R45, 20_memory.md R70) -/

/-- `Main[a]`. -/
def readMain : Memory xlen → Nat → Word xlen
  | [], _ => unlistedWord
  | (k, v) :: m, a => if k = a then v else readMain m a

/-- `Main[a] <- v`, in canonical form. -/
def writeMain : Memory xlen → Nat → Word xlen → Memory xlen
  | [], a, v => if v = unlistedWord then [] else [(a, v)]
  | (k, u) :: m, a, v =>
    if a < k then (if v = unlistedWord then (k, u) :: m else (a, v) :: (k, u) :: m)
    else if a = k then (if v = unlistedWord then m else (a, v) :: m)
    else (k, u) :: writeMain m a v

/-- Every address of the list is above `lo`, the addresses rise strictly, and no entry holds `unlistedWord`. -/
def risingFrom : Nat → Memory xlen → Bool
  | _, [] => true
  | lo, (k, v) :: m => decide (lo ≤ k) && decide (v ≠ unlistedWord) && risingFrom (k + 1) m

/-- The canonical form of a memory (log 3). -/
def Memory.wf (m : Memory xlen) : Bool := risingFrom 0 m

/-! ### The cache controller (20_memory.md R77 to R85) -/

/-- `line_index(a)` (R78). -/
def lineIndex (p : Params xlen) (a : Nat) : Nat := (a / p.blockSize) % p.numLines

/-- `tag(a)` (R78). -/
def tagOf (p : Params xlen) (a : Nat) : Nat := a / (p.blockSize * p.numLines)

/-- `offset(a)` (R78). -/
def offsetOf (p : Params xlen) (a : Nat) : Nat := a % p.blockSize

/-- The line `C[i]`. -/
def lineAt (s : CoreState xlen) (i : Nat) : Line xlen := s.cache.getD i (resetLine s.params)

/-- Is an access to address `a` a hit: `C[i].valid = 1` and `C[i].tag = t` (R80)? -/
def isHit (s : CoreState xlen) (a : Nat) : Bool :=
  (lineAt s (lineIndex s.params a)).valid
    && decide ((lineAt s (lineIndex s.params a)).tag = tagOf s.params a)

/-- The words `Main[base] .. Main[base + n - 1]` of a block fill (R81). -/
def blockOf (m : Memory xlen) (base n : Nat) : List (Word xlen) := (List.range n).map (fun j => readMain m (base + j))

/-- The line a read miss of address `a` leaves (R81). -/
def filledLine (s : CoreState xlen) (a : Nat) : Line xlen :=
  { valid := true, tag := tagOf s.params a,
    data := blockOf s.main (a - offsetOf s.params a) s.params.blockSize }

/-- `C[i] <- l`. -/
def setLine (s : CoreState xlen) (i : Nat) (l : Line xlen) : CoreState xlen := s.setCache (s.cache.set i l)

/-- `cache_hits <- cache_hits + 1`. -/
def countHit (s : CoreState xlen) : CoreState xlen := s.setMetrics { s.metrics with cacheHits := s.metrics.cacheHits + 1 }

/-- `cache_misses <- cache_misses + 1`. -/
def countMiss (s : CoreState xlen) : CoreState xlen := s.setMetrics { s.metrics with cacheMisses := s.metrics.cacheMisses + 1 }

/-- `MemRead(a, 1)`: the word read (R80, R81). -/
def memReadWord (s : CoreState xlen) (a : Nat) : Word xlen :=
  if isHit s a then (lineAt s (lineIndex s.params a)).data.getD (offsetOf s.params a) unlistedWord
  else (filledLine s a).data.getD (offsetOf s.params a) unlistedWord

/-- `MemRead(a, 1)`: the state it leaves: a hit is counted; a miss is counted and fills the line (R80, R81). -/
def memReadState (s : CoreState xlen) (a : Nat) : CoreState xlen :=
  if isHit s a then countHit s
  else setLine (countMiss s) (lineIndex s.params a) (filledLine s a)

/-- The line a write hit leaves: `C[i].data[o] <- v` (R82). -/
def writtenLine (s : CoreState xlen) (a : Nat) (v : Word xlen) : Line xlen :=
  { lineAt s (lineIndex s.params a) with
    data := (lineAt s (lineIndex s.params a)).data.set (offsetOf s.params a) v }

/-- `MemWrite(a, 1, v)`: a hit writes the line and Main; a miss writes Main alone; neither counts (R82 to R84). -/
def memWrite (s : CoreState xlen) (a : Nat) (v : Word xlen) : CoreState xlen :=
  if isHit s a then (setLine s (lineIndex s.params a) (writtenLine s a v)).setMain (writeMain s.main a v)
  else s.setMain (writeMain s.main a v)

/-- The address check of Memory-access (R76): `0 <= a < MEM_SIZE`. -/
def addressOk (s : CoreState xlen) (a : Int) : Bool := decide (0 ≤ a) && decide (a < s.params.memSize)

/-! ### General registers (10_state.md R30 to R33) -/

/-- `x[k] <- v`; a register that does not exist faults (log 9). -/
def writeReg (k : Nat) (v : Word xlen) (s : CoreState xlen) : Out xlen :=
  if k < s.regs.length then .next (s.setRegs (s.regs.set k v)) else .fault (.noSuchRegister k)

/-! ### Counters (10_state.md R39) -/

/-- `cycles <- cycles + 1`. -/
def countCycle (s : CoreState xlen) : CoreState xlen := s.setMetrics { s.metrics with cycles := s.metrics.cycles + 1 }

/-- `stalls <- stalls + 1`. -/
def countStall (s : CoreState xlen) : CoreState xlen := s.setMetrics { s.metrics with stalls := s.metrics.stalls + 1 }

/-- `interrupts <- interrupts + 1`. -/
def countInterrupt (s : CoreState xlen) : CoreState xlen :=
  s.setMetrics { s.metrics with interrupts := s.metrics.interrupts + 1 }

/-! ### Pipeline actions of Decode -/

/-- The load-use stall (40_pipeline.md R139): a bubble into ID, the stall counted, Fetch held for this cycle. -/
def stall (s : CoreState xlen) : CoreState xlen := ((countStall (s.setID none)).setFetchEn false)

/-- A taken branch (R141): PC at the target, IF and ID flushed, Fetch held for this cycle. -/
def flushTo (t : Word xlen) (s : CoreState xlen) : CoreState xlen := (((s.setPc t).setIF none).setID none).setFetchEn false

/-! ### The device (60_exceptions.md R284) -/

/-- `generate_data(value)`. -/
def generateData (v : Word xlen) (s : CoreState xlen) : CoreState xlen := s.setDev { ready := true, value := v }

/-- `clear()`: the `dev_clear` pulse. -/
def clearDevice (s : CoreState xlen) : CoreState xlen := s.setDev { ready := false, value := s.dev.value }

/-! ### The interrupt (60_exceptions.md R270 to R278) -/

/-- The trigger condition (R273): the device is ready and the controller is not handling. -/
def interruptPending (s : CoreState xlen) : Bool := s.dev.ready && decide (s.istate.mode = .normal)

/-- Normal to Handling (R274): the PC is saved, PC takes ISR_ADDR, the device is cleared, the interrupt counted. -/
def takeInterrupt (s : CoreState xlen) : CoreState xlen :=
  (countInterrupt (clearDevice ((s.setIstate { mode := .normal, savedPC := some s.pc }).setPc s.params.isrAddr))).setIstate
    { mode := .handling, savedPC := some s.pc }

/-- The fixed service routine (R274): the sentinel value into the sentinel register. -/
def serviceRoutine (s : CoreState xlen) : Out xlen := writeReg s.params.sentinelReg s.params.sentinelValue s

/-- Handling to Normal (R274, R278): PC restored from the saved value, which is cleared. -/
def returnFromInterrupt (s : CoreState xlen) : CoreState xlen :=
  (s.setPc (s.istate.savedPC.getD s.pc)).setIstate { mode := .normal, savedPC := none }

/-- The interrupt cycle, less its `cycles <- cycles + 1` (R274). -/
def interruptCycle (s : CoreState xlen) : Out xlen :=
  match serviceRoutine (takeInterrupt s) with
  | .next s' => .next (returnFromInterrupt s')
  | .fault f => .fault f
  | .refused r => .refused r

/-! ### Dynamic faults (60_exceptions.md R262 to R265) -/

/-- The record a dynamic fault delivers (R264): its `cycle` is the counter's value at the fault. None for the model's own
faults, which the spec does not know. -/
def dynamicRecord (f : Fault) (s : CoreState xlen) : Option FaultRecord :=
  match f with
  | .addressOutOfRange idx a =>
    some { kind := .addressOutOfRange, idx := idx, info := .address a, cycle := some s.metrics.cycles }
  | .negativeShift idx n =>
    some { kind := .negativeShift, idx := idx, info := .amount n, cycle := some s.metrics.cycles }
  | .noSuchRegister _ => none
  | .latchMismatch => none
  | .unvalidatedRecord _ => none

/-- A raise ends the run (R265): every write made before it stands, nothing later happens, and the outcome is Fault with
its record. A fault of the model's own stops the machine. -/
def endWithFault (f : Fault) (s : CoreState xlen) : Out xlen :=
  match dynamicRecord f s with
  | some r => .next ((s.setStatus (.faulted r)).setSignals Signals.rest)
  | none => .fault f

end Sys2Proof.Machine
end

