-- ==== Sys2Proof/Machine/Operands.lean ====
section
/-! DEFINITION. Operand resolution in Decode: the forwarding multiplexer and the hazard detector (40_pipeline.md R136). An
operand is a register or an immediate (30_encoding.md R101); no other form exists. -/

namespace Sys2Proof.Machine

variable {xlen : Nat}

/-- What resolving one source operand answers. -/
inductive Resolved (xlen : Nat) where
  /-- Its value. -/
  | value (w : Word xlen)
  /-- The load-use hazard (R136). -/
  | stall
  /-- A fault of the model's own, in states no run reaches (log 9). -/
  | broken (f : Fault)
  deriving DecidableEq, Repr

/-- What resolving a list of source operands answers. -/
inductive ResolvedAll (xlen : Nat) where
  | values (ws : List (Word xlen))
  | stall
  | broken (f : Fault)
  deriving DecidableEq, Repr

/-- The latch's entry when it is populated and its `dest` is register `k` (R136). -/
def writerOf (k : Nat) : Option (ExEntry xlen) → Option (ExEntry xlen)
  | some e => if e.dest = some k then some e else none
  | none => none

/-- The result an entry forwards. -/
def forwarded (e : ExEntry xlen) : Resolved xlen :=
  match e.result with
  | some w => .value w
  | none => .broken .latchMismatch

/-- Check (3)'s test: is the entry's opcode LOAD? -/
def isLoadEntry (e : ExEntry xlen) : Bool := decide (e.instr.opcode = .load)

/-- Check (4): the register file. -/
def readRegFile (k : Nat) (s : CoreState xlen) : Resolved xlen :=
  match s.regs[k]? with
  | some w => .value w
  | none => .broken (.noSuchRegister k)

/-- Check (3), then (4): EX, unless it is a LOAD. -/
def resolveFromEX (k : Nat) (s : CoreState xlen) : Resolved xlen :=
  match writerOf k s.exL with
  | some e => if isLoadEntry e then .stall else forwarded e
  | none => readRegFile k s

/-- Check (2), then (3). -/
def resolveFromMEM (k : Nat) (s : CoreState xlen) : Resolved xlen :=
  match writerOf k s.memL with
  | some e => forwarded e
  | none => resolveFromEX k s

/-- `resolve(Reg(k))` (R136): check (1), WB, comes first, so the oldest writer in flight wins (R150). -/
def resolveReg (k : Nat) (s : CoreState xlen) : Resolved xlen :=
  match writerOf k s.wbL with
  | some e => forwarded e
  | none => resolveFromMEM k s

/-- `resolve(s)` (R136); an immediate is the word `word(v)` (30_encoding.md R109). -/
def resolve (o : Operand) (s : CoreState xlen) : Resolved xlen :=
  match o with
  | .imm v => .value (word xlen v)
  | .reg k => resolveReg k s

/-- The source operands in order; the first that stalls stalls the instruction (R135). -/
def resolveAll : List Operand → CoreState xlen → ResolvedAll xlen
  | [], _ => .values []
  | o :: os, s =>
    match resolve o s with
    | .value w =>
      match resolveAll os s with
      | .values ws => .values (w :: ws)
      | .stall => .stall
      | .broken f => .broken f
    | .stall => .stall
    | .broken f => .broken f

end Sys2Proof.Machine
end

