-- ==== Sys2Proof/Machine/Stages.lean ====
section
/-! DEFINITION. What an instruction does in each stage (40_pipeline.md R134 to R147): the shared stage parts, and the
frame `atStageOf` that gives an instruction its meaning from its four parts. The templates of 41_arithmetic.md to 45_nop.md
(Decode, Execute, Memory-access, Write-back) are written as such parts. -/

namespace Sys2Proof.Machine

variable {xlen : Nat}

/-! ### Fetch (R134) -/

/-- Fetch of an instruction at a program counter in bounds: the IF latch takes it with its index and PC goes up by one. -/
def fetchInstr (i : Instr) (s : CoreState xlen) : CoreState xlen :=
  (s.setIF (some { idx := ux s.pc, instr := i })).setPc (s.pc + 1)

/-! ### Decode (R135, R141 to R143) -/

/-- The ID entry of a decoded instruction; its hazard flag is always 0 (10_state.md R43). -/
def decodedEntry (idx : Nat) (i : Instr) (dest : Option Nat) (srcs : List Operand) (vals : List (Word xlen))
    (target : Option (Word xlen)) : IdEntry xlen :=
  { idx := idx, instr := i, dest := dest, srcs := srcs, vals := vals, target := target, hazard := false }

/-- Decode of an instruction that is no branch (R135): its sources resolved into the ID latch, or a stall. -/
def decodeSources (i : Instr) (dest : Option Nat) (srcs : List Operand) (f : IfEntry) (s : CoreState xlen) : Out xlen :=
  match resolveAll srcs s with
  | .values vs => .next (s.setID (some (decodedEntry f.idx i dest srcs vs none)))
  | .stall => .next (stall s)
  | .broken e => .fault e

/-- Branch resolution (R141): taken, the flush; not taken, an entry with no destination and no sources (R142). -/
def resolveBranch (i : Instr) (taken : CoreState xlen → Bool) (t : Word xlen) (f : IfEntry) (s : CoreState xlen) : Out xlen :=
  if taken s then .next (flushTo t s)
  else .next (s.setID (some (decodedEntry f.idx i none [] [] (some t))))

/-! ### Execute (R145) -/

/-- The EX latch takes the executed entry. -/
def intoEX (d : IdEntry xlen) (result sval : Option (Word xlen)) (s : CoreState xlen) : CoreState xlen :=
  s.setEX (some { idx := d.idx, instr := d.instr, dest := d.dest, result := result, sval := sval })

/-- Execute of ADD, SUB, MUL and AND (41_arithmetic.md R180): the result and its zero flag. -/
def executeALU (f : Word xlen → Word xlen → Word xlen) (d : IdEntry xlen) (s : CoreState xlen) : Out xlen :=
  match d.vals with
  | [va, vb] => .next ((intoEX d (some (f va vb)) none s).setZ (zeroFlag (f va vb)))
  | _ => .fault .latchMismatch

/-- Execute of SHL (R186): a negative amount raises before anything is written. -/
def executeShift (f : Word xlen → Word xlen → Word xlen) (d : IdEntry xlen) (s : CoreState xlen) : Out xlen :=
  match d.vals with
  | [va, vb] =>
    if sx vb < 0 then .fault (.negativeShift d.idx (sx vb))
    else .next ((intoEX d (some (f va vb)) none s).setZ (zeroFlag (f va vb)))
  | _ => .fault .latchMismatch

/-- Execute of MOV and LOAD: the one source value passes through; Z is not written (42_data_movement.md R202, R203). -/
def executePassValue (d : IdEntry xlen) (s : CoreState xlen) : Out xlen :=
  match d.vals with
  | [va] => .next (intoEX d (some va) none s)
  | _ => .fault .latchMismatch

/-- Execute of STORE (R204): the address as result, the value as `sval`. -/
def executeStore (d : IdEntry xlen) (s : CoreState xlen) : Out xlen :=
  match d.vals with
  | [vs, va] => .next (intoEX d (some va) (some vs) s)
  | _ => .fault .latchMismatch

/-- Execute of CMP (43_compare.md R220): Z from the equality; the difference travels as the result. -/
def executeCompare (diff : Word xlen → Word xlen → Word xlen) (d : IdEntry xlen) (s : CoreState xlen) : Out xlen :=
  match d.vals with
  | [va, vb] => .next ((intoEX d (some (diff va vb)) none s).setZ (equalFlag va vb))
  | _ => .fault .latchMismatch

/-- Execute of NOP and of a branch not taken: nothing (45_nop.md R250, 44_control.md R233). -/
def executeNothing (d : IdEntry xlen) (s : CoreState xlen) : Out xlen := .next (intoEX d none none s)

/-- Execute of JMP, which no run reaches: a JMP leaves the pipe in Decode (R232; log 15). -/
def executeNever (_ : IdEntry xlen) (_ : CoreState xlen) : Out xlen := .fault .latchMismatch

/-! ### Memory-access (R146) -/

/-- An entry that makes no access passes through unchanged. -/
def passMemory (e : ExEntry xlen) (s : CoreState xlen) : Out xlen := .next (s.setMEM (some e))

/-- Memory-access of LOAD (42_data_movement.md R203): the address check, then the cache read. -/
def accessLoad (e : ExEntry xlen) (s : CoreState xlen) : Out xlen :=
  match e.result with
  | some w =>
    if addressOk s (sx w) then
      .next ((memReadState s (sx w).toNat).setMEM (some { e with result := some (memReadWord s (sx w).toNat) }))
    else .fault (.addressOutOfRange e.idx (sx w))
  | none => .fault .latchMismatch

/-- Memory-access of STORE (R204): the address check, then the cache write. -/
def accessStore (e : ExEntry xlen) (s : CoreState xlen) : Out xlen :=
  match e.result, e.sval with
  | some w, some v =>
    if addressOk s (sx w) then .next ((memWrite s (sx w).toNat v).setMEM (some e))
    else .fault (.addressOutOfRange e.idx (sx w))
  | _, _ => .fault .latchMismatch

/-! ### Write-back (R147) -/

/-- Write-back of an instruction with a destination: `x[dest] <- result`, and the entry stays in WB. -/
def commit (m : ExEntry xlen) (s : CoreState xlen) : Out xlen :=
  match m.dest, m.result with
  | some k, some v => writeReg k v (s.setWB (some m))
  | _, _ => .fault .latchMismatch

/-- Write-back of STORE, CMP, NOP and a branch not taken: nothing but the WB latch. -/
def retire (m : ExEntry xlen) (s : CoreState xlen) : Out xlen := .next (s.setWB (some m))

/-! ### The meaning of an instruction from its parts -/

/-- An instruction's parts: what it does in Decode with its IF entry, in Execute with its ID entry, in Memory-access
with its EX entry, in Write-back with its MEM entry. -/
structure Parts (xlen : Nat) where
  decode : IfEntry → CoreState xlen → Out xlen
  execute : IdEntry xlen → CoreState xlen → Out xlen
  memory : ExEntry xlen → CoreState xlen → Out xlen
  writeBack : ExEntry xlen → CoreState xlen → Out xlen

/-- The outcome of a part of a step, of the machine it belongs to. -/
def ofWidth : Out xlen → Result
  | .next c => .next { xlen := xlen, core := c }
  | .fault f => .fault f
  | .refused r => .refused r

/-- What a part of a step does on a machine, at the machine's own width. -/
def atWidth (s : State) (f : CoreState s.xlen → Out s.xlen) : Result := ofWidth (f s.core)

/-- What instruction `i` does in the stage function that is running (log 6). A stage whose upstream latch is empty emits
the bubble and does nothing else (R144, R148). -/
def atStageOf (i : Instr) (p : Parts xlen) (s : CoreState xlen) : Out xlen :=
  match s.signals.stage with
  | .fetch => .next (fetchInstr i s)
  | .decode =>
    match s.ifL with
    | some f => p.decode f s
    | none => .next (s.setID none)
  | .execute =>
    match s.idL with
    | some d => p.execute d s
    | none => .next (s.setEX none)
  | .memoryAccess =>
    match s.exL with
    | some e => p.memory e s
    | none => .next (s.setMEM none)
  | .writeBack =>
    match s.memL with
    | some m => p.writeBack m s
    | none => .next (s.setWB none)

end Sys2Proof.Machine
end

