-- ==== Sys2Proof/Machine/Arithmetic.lean ====
section
/-! DEFINITION. The arithmetic family (41_arithmetic.md): ADD, SUB, MUL, AND, SHL. Each result is computed on exact integers
and narrowed by `word` (R181). -/

namespace Sys2Proof.Machine

variable {xlen : Nat}

/-- `word(ux(va) + ux(vb))` (R182). -/
def addResult (va vb : Word xlen) : Word xlen := word xlen ((ux va : Int) + (ux vb : Int))

/-- `word(ux(va) - ux(vb))` (R183; also the difference CMP carries, 43_compare.md R220). -/
def subResult (va vb : Word xlen) : Word xlen := word xlen ((ux va : Int) - (ux vb : Int))

/-- `word(ux(va) * ux(vb))` (R184): the low XLEN bits of the product. -/
def mulResult (va vb : Word xlen) : Word xlen := word xlen ((ux va : Int) * (ux vb : Int))

/-- `result[i] <- va[i] and vb[i]` for every bit (R185). -/
def andResult (va vb : Word xlen) : Word xlen := va &&& vb

/-- `s >= XLEN` gives 0, else `word(ux(va) * 2^s)`, with `s = sx(vb)` (R186). -/
def shlResult (va vb : Word xlen) : Word xlen :=
  if (xlen : Int) ≤ sx vb then 0 else word xlen ((ux va : Int) * 2 ^ (sx vb).toNat)

/-- ADD (R182). -/
def execAdd (rd : Nat) (a b : Operand) (s : State) : Result :=
  atWidth s (atStageOf (.add rd a b)
    { decode := decodeSources (.add rd a b) (some rd) [a, b], execute := executeALU addResult,
      memory := passMemory, writeBack := commit })

/-- SUB (R183). -/
def execSub (rd : Nat) (a b : Operand) (s : State) : Result :=
  atWidth s (atStageOf (.sub rd a b)
    { decode := decodeSources (.sub rd a b) (some rd) [a, b], execute := executeALU subResult,
      memory := passMemory, writeBack := commit })

/-- MUL (R184). -/
def execMul (rd : Nat) (a b : Operand) (s : State) : Result :=
  atWidth s (atStageOf (.mul rd a b)
    { decode := decodeSources (.mul rd a b) (some rd) [a, b], execute := executeALU mulResult,
      memory := passMemory, writeBack := commit })

/-- AND (R185). -/
def execAnd (rd : Nat) (a b : Operand) (s : State) : Result :=
  atWidth s (atStageOf (.and rd a b)
    { decode := decodeSources (.and rd a b) (some rd) [a, b], execute := executeALU andResult,
      memory := passMemory, writeBack := commit })

/-- SHL (R186). -/
def execShl (rd : Nat) (a b : Operand) (s : State) : Result :=
  atWidth s (atStageOf (.shl rd a b)
    { decode := decodeSources (.shl rd a b) (some rd) [a, b], execute := executeShift shlResult,
      memory := passMemory, writeBack := commit })

end Sys2Proof.Machine
end

