-- ==== Sys2Proof/Machine/Compare.lean ====
section
/-! DEFINITION. The compare family (43_compare.md): CMP. -/

namespace Sys2Proof.Machine

/-- CMP (R220). -/
def execCmp (a b : Operand) (s : State) : Result :=
  atWidth s (atStageOf (.cmp a b)
    { decode := decodeSources (.cmp a b) none [a, b], execute := executeCompare subResult,
      memory := passMemory, writeBack := retire })

end Sys2Proof.Machine
end

