-- ==== Sys2Proof/Machine/Control.lean ====
section
/-! DEFINITION. The control family (44_control.md): JMP, JZ, JNZ, JE. All are resolved in Decode (40_pipeline.md R141). -/

namespace Sys2Proof.Machine

/-- JMP (R232): always taken, so no later stage is reached (log 15). -/
def execJmp (t : Int) (s : State) : Result :=
  atWidth s (atStageOf (.jmp t)
    { decode := resolveBranch (.jmp t) alwaysTaken (word _ t), execute := executeNever,
      memory := passMemory, writeBack := retire })

/-- JZ (R233). -/
def execJz (t : Int) (s : State) : Result :=
  atWidth s (atStageOf (.jz t)
    { decode := resolveBranch (.jz t) takenIfZero (word _ t), execute := executeNothing,
      memory := passMemory, writeBack := retire })

/-- JNZ (R234). -/
def execJnz (t : Int) (s : State) : Result :=
  atWidth s (atStageOf (.jnz t)
    { decode := resolveBranch (.jnz t) takenIfNotZero (word _ t), execute := executeNothing,
      memory := passMemory, writeBack := retire })

/-- JE (R235). -/
def execJe (t : Int) (s : State) : Result :=
  atWidth s (atStageOf (.je t)
    { decode := resolveBranch (.je t) takenIfEqual (word _ t), execute := executeNothing,
      memory := passMemory, writeBack := retire })

end Sys2Proof.Machine
end

