-- ==== Sys2Proof/Machine/DataMovement.lean ====
section
/-! DEFINITION. The data-movement family (42_data_movement.md): MOV, LOAD, STORE. None writes Z (R200). -/

namespace Sys2Proof.Machine

/-- MOV (R202). -/
def execMov (rd : Nat) (a : Operand) (s : State) : Result :=
  atWidth s (atStageOf (.mov rd a)
    { decode := decodeSources (.mov rd a) (some rd) [a], execute := executePassValue,
      memory := passMemory, writeBack := commit })

/-- LOAD (R203). -/
def execLoad (rd : Nat) (a : Operand) (s : State) : Result :=
  atWidth s (atStageOf (.load rd a)
    { decode := decodeSources (.load rd a) (some rd) [a], execute := executePassValue,
      memory := accessLoad, writeBack := commit })

/-- STORE (R204): the value register is resolved first, then the address; no destination. -/
def execStore (rs : Nat) (a : Operand) (s : State) : Result :=
  atWidth s (atStageOf (.store rs a)
    { decode := decodeSources (.store rs a) none [.reg rs, a], execute := executeStore,
      memory := accessStore, writeBack := retire })

end Sys2Proof.Machine
end

