-- ==== Sys2Proof/Machine/Nop.lean ====
section
/-! DEFINITION. The no-op family (45_nop.md): NOP. -/

namespace Sys2Proof.Machine

/-- NOP (R250): a populated entry with no destination and no sources, and no effect. -/
def execNop (s : State) : Result :=
  atWidth s (atStageOf .nop
    { decode := decodeSources .nop none [], execute := executeNothing,
      memory := passMemory, writeBack := retire })

end Sys2Proof.Machine
end

