-- ==== Sys2Proof/Machine/Dispatch.lean ====
section
/-! DEFINITION. The meaning of every instruction: what it does in the stage function that is running. -/

namespace Sys2Proof.Machine

def exec (i : Instr) (s : State) : Host.Outcome State Fault Refusal :=
  match i with
  | .nop => Sys2Proof.Machine.execNop s
  | .add rd a b => Sys2Proof.Machine.execAdd rd a b s
  | .sub rd a b => Sys2Proof.Machine.execSub rd a b s
  | .mul rd a b => Sys2Proof.Machine.execMul rd a b s
  | .and rd a b => Sys2Proof.Machine.execAnd rd a b s
  | .shl rd a b => Sys2Proof.Machine.execShl rd a b s
  | .mov rd a => Sys2Proof.Machine.execMov rd a s
  | .load rd a => Sys2Proof.Machine.execLoad rd a s
  | .store rs a => Sys2Proof.Machine.execStore rs a s
  | .cmp a b => Sys2Proof.Machine.execCmp a b s
  | .jmp t => Sys2Proof.Machine.execJmp t s
  | .jz t => Sys2Proof.Machine.execJz t s
  | .jnz t => Sys2Proof.Machine.execJnz t s
  | .je t => Sys2Proof.Machine.execJe t s

end Sys2Proof.Machine
end

