-- ==== Sys2Proof/Machine/Cycle.lean ====
section
/-! DEFINITION. One cycle (40_pipeline.md R130): the interrupt check, the five stage functions in reverse pipeline order,
and what a raise inside a stage leaves. -/

namespace Sys2Proof.Machine

variable {xlen : Nat}

/-- How far a cycle has come: its statements so far done, or a raise with the state it left. -/
inductive CycleResult where
  | ran (s : State)
  | raised (f : Fault) (s : State)
  | refused (r : Refusal)
  deriving DecidableEq, Repr

/-- The next stage function of the cycle. A stage raises before it writes anything, so the state at the raise is the one
the stages before it left (60_exceptions.md R265). -/
def nextStage (c : CycleResult) (stage : {n : Nat} → CoreState n → Result) : CycleResult :=
  match c with
  | .ran s =>
    match stage s.core with
    | .next s' => .ran s'
    | .fault f => .raised f s
    | .refused r => .refused r
  | .raised f s => .raised f s
  | .refused r => .refused r

/-- Write-back (R147) of the instruction in MEM. -/
def writeBackStage (s : CoreState xlen) : Result :=
  match s.memL with
  | some m => exec m.instr { xlen := xlen, core := s.atStage .writeBack }
  | none => .next { xlen := xlen, core := s.setWB none }

/-- Memory-access (R146) of the instruction in EX. -/
def memoryStage (s : CoreState xlen) : Result :=
  match s.exL with
  | some e => exec e.instr { xlen := xlen, core := s.atStage .memoryAccess }
  | none => .next { xlen := xlen, core := s.setMEM none }

/-- Execute (R145) of the instruction in ID. -/
def executeStage (s : CoreState xlen) : Result :=
  match s.idL with
  | some d => exec d.instr { xlen := xlen, core := s.atStage .execute }
  | none => .next { xlen := xlen, core := s.setEX none }

/-- `fetch_en <- 1`, then Decode (R130, R135) of the instruction in IF. -/
def decodeStage (s : CoreState xlen) : Result :=
  match s.ifL with
  | some f => exec f.instr { xlen := xlen, core := (s.setFetchEn true).atStage .decode }
  | none => .next { xlen := xlen, core := (s.setFetchEn true).setID none }

/-- PC is within program bounds: `0 <= pc < N` (10_state.md R34). -/
def pcInBounds (s : CoreState xlen) : Bool := decide (0 ≤ sx s.pc) && decide (sx s.pc < s.prog.length)

/-- The element of the program store at PC, decoded (the `prog_idx` / `prog_rec` port of R56). -/
def recordAtPC (s : CoreState xlen) : Option (Except FaultRecord Instr) :=
  if pcInBounds s then
    match s.prog[ux s.pc]? with
    | some p => some (decodeItem s.params.numRegs (ux s.pc) p)
    | none => none
  else none

/-- Fetch (R134), when `fetch_en = 1` (R149): the instruction at PC, or the bubble when PC is out of bounds. -/
def fetchStage (s : CoreState xlen) : Result :=
  if s.signals.fetchEn then
    match recordAtPC s with
    | some (.ok i) => exec i { xlen := xlen, core := s.atStage .fetch }
    | some (.error r) => .fault (.unvalidatedRecord r)
    | none => .next { xlen := xlen, core := s.setIF none }
  else .next { xlen := xlen, core := s }

/-- The five stage functions in order (R130). -/
def runStages (s : CoreState xlen) : CycleResult :=
  nextStage (nextStage (nextStage (nextStage (nextStage (.ran { xlen := xlen, core := s }) writeBackStage) memoryStage)
    executeStage) decodeStage) fetchStage

/-- The end of a normal cycle: counted, or ended by a raise (R130, 60_exceptions.md R265). -/
def endCycle : CycleResult → Result
  | .ran s => .next { xlen := s.xlen, core := (countCycle s.core).setSignals Signals.rest }
  | .raised f s => atWidth s (endWithFault f)
  | .refused r => .refused r

/-- A cycle that services the interrupt: nothing else happens in it (R130, 60_exceptions.md R275). -/
def serviceCycle (s : CoreState xlen) : Out xlen :=
  match interruptCycle s with
  | .next s' => .next (countCycle s')
  | .fault f => .fault f
  | .refused r => .refused r

/-- One cycle (R130). -/
def cycle (s : CoreState xlen) : Result :=
  if interruptPending s then ofWidth (serviceCycle s) else endCycle (runStages s)

end Sys2Proof.Machine
end

