-- ==== Sys2Proof/Machine/Run.lean ====
section
/-! DEFINITION. Reset, the run loop and the end of a run (70_reset_and_hazards.md R300 to R309), and the outputs of the
block interface (10_state.md R56). -/

namespace Sys2Proof.Machine

variable {xlen : Nat}

/-! ### Reset (R300) -/

/-- What the host supplies for a run (R303): XLEN and the other parameters of 00_scope.md R7, the program, the initial
registers and memory (00_scope.md R9), the cycle cap and the trigger schedule. -/
structure RunInputs where
  xlen : Nat
  params : Params xlen
  prog : List (ProgItem xlen)
  initRegs : List (Word xlen)
  initMem : List (Nat × Word xlen)
  maxCycles : Nat
  triggers : List (Nat × Word xlen)
  deriving DecidableEq, Repr

/-- The inputs when the host gives none (log 1, 2, 5, 11). -/
def RunInputs.none : RunInputs :=
  { xlen := testXLEN, params := Params.test, prog := [], initRegs := [], initMem := [],
    maxCycles := testMaxCycles, triggers := [] }

/-- The registers from `init_regs`, 0 where the host gives none (10_state.md R55). -/
def initialRegs (n : Nat) (r : List (Word xlen)) : List (Word xlen) := (List.range n).map (fun k => r.getD k 0)

/-- Main from `init_mem`: `Main[a] <- init_mem[a]`, every address the host does not list 0 (10_state.md R55). DESIGN
CHOICE (log 19): the spec's `init_mem` has one value per address; where the list names an address twice, the first entry
for it wins. -/
def initialMain : List (Nat × Word xlen) → Memory xlen
  | [] => []
  | (a, v) :: rest => writeMain (initialMain rest) a v

/-- The status a program is loaded with (R300 step 2): running, or refused by its first static fault
(60_exceptions.md R261). -/
def loadStatus (p : Params xlen) (prog : List (ProgItem xlen)) : RunStatus :=
  match firstStaticFault p.numRegs 0 prog with
  | some r => .refused r
  | none => .running

/-- Asserting `rst` (R300): validation, then every item of state at its reset value (10_state.md R55). The device is not
reset by the core. -/
def assertReset (inp : RunInputs) (dev : Device inp.xlen) : CoreState inp.xlen :=
  { params := inp.params, prog := inp.prog,
    regs := initialRegs inp.params.numRegs inp.initRegs, z := false, pc := 0,
    ifL := none, idL := none, exL := none, memL := none, wbL := none,
    cache := List.replicate inp.params.numLines (resetLine inp.params), main := initialMain inp.initMem,
    istate := { mode := .normal, savedPC := none },
    metrics := { cycles := 0, stalls := 0, cacheHits := 0, cacheMisses := 0, interrupts := 0 },
    dev := dev, triggers := inp.triggers, maxCycles := inp.maxCycles,
    status := loadStatus inp.params inp.prog, signals := Signals.rest }

/-- A machine of the width the host supplies, with `rst` asserted. -/
def resetMachine (inp : RunInputs) (dev : Device inp.xlen) : State := { xlen := inp.xlen, core := assertReset inp dev }

/-! ### The run loop (R304 to R306) -/

/-- The value the schedule gives cycle index `t`, if any: the first entry for it (log 19). -/
def triggerAt : List (Nat × Word xlen) → Nat → Option (Word xlen)
  | [], _ => none
  | (c, v) :: rest, t => if c = t then some v else triggerAt rest t

/-- The host's action between cycles: `if t in triggers: dev.generate_data(triggers[t])` with `t = cycles`. -/
def hostAction (s : CoreState xlen) : CoreState xlen :=
  match triggerAt s.triggers s.metrics.cycles with
  | some v => generateData v s
  | none => s

/-- `done()` (R305): all five latches empty, no pending data, PC out of bounds. -/
def isDone (s : CoreState xlen) : Bool :=
  s.ifL.isNone && s.idL.isNone && s.exL.isNone && s.memL.isNone && s.wbL.isNone && !s.dev.ready && !pcInBounds s

/-- The cap (R306): `cycles >= max_cycles`. -/
def isCapped (s : CoreState xlen) : Bool := decide (s.maxCycles ≤ s.metrics.cycles)

/-- The body of the loop after the host's action: the natural end first, then the cap, then a cycle (R304). -/
def loopBody (s : CoreState xlen) : Result :=
  if isDone s then .next { xlen := xlen, core := s.setStatus .done }
  else if isCapped s then .next { xlen := xlen, core := s.setStatus .capped }
  else cycle s

/-- One iteration of the run loop. After the run has ended, a tick changes nothing (R309, 92_eei_decisions.md D44). -/
def tick (s : CoreState xlen) : Result :=
  match s.status with
  | .running => loopBody (hostAction s)
  | .done => .next { xlen := xlen, core := s }
  | .capped => .next { xlen := xlen, core := s }
  | .faulted _ => .next { xlen := xlen, core := s }
  | .refused _ => .next { xlen := xlen, core := s }

/-! ### The outputs of the block interface (10_state.md R56) -/

/-- `done`: the end condition holds. -/
def doneOut (s : CoreState xlen) : Bool := isDone s

/-- `fault`: none, or the fault record. -/
def faultOut (s : CoreState xlen) : Option FaultRecord :=
  match s.status with
  | .faulted r => some r
  | .refused r => some r
  | _ => none

/-- `metrics` (R307). -/
def metricsOut (s : CoreState xlen) : Metrics := s.metrics

/-- `prog_len`: `N`. -/
def progLenOut (s : CoreState xlen) : Nat := s.prog.length

/-- `dev_clear`: pulsed in an interrupt cycle (60_exceptions.md R284). -/
def devClearOut (s : CoreState xlen) : Bool :=
  decide (s.status = .running) && !isDone (hostAction s) && !isCapped (hostAction s) && interruptPending (hostAction s)

/-! ### Loading one record word for the next fetch -/

/-- The program store and PC with a record word where Fetch reads next: at PC when it is in bounds, else appended with PC
at it (log 11). -/
def placeWord (s : CoreState xlen) (w : RecordWord xlen) : CoreState xlen :=
  if pcInBounds s then s.setProg (s.prog.set (ux s.pc) (.word w))
  else (s.setProg (s.prog ++ [.word w])).setPc (BitVec.ofNat xlen s.prog.length)

/-- Load one record word for the next fetch, with the validation that belongs to a load (R300; log 11). Bits that fit no
record word leave an element that validation refuses (log 12). -/
def loadFetchWord (s : CoreState xlen) (nbits w : Nat) : CoreState xlen :=
  match recordWordOfBits xlen nbits w with
  | some rw => (placeWord s rw).setStatus (loadStatus s.params (placeWord s rw).prog)
  | none => s.setStatus (.refused (staticFault .malformedOperands (ux s.pc) .nothing))

end Sys2Proof.Machine
end

