-- ==== Sys2Proof/Machine/Step.lean ====
section
/-! DEFINITION. One step: one iteration of the run loop of 70_reset_and_hazards.md R304, whose work is one cycle
(00_scope.md R6; log 7). -/

namespace Sys2Proof.Machine

/-- One step of the machine. -/
def step (s : State) : Host.Outcome State Fault Refusal := tick s.core

/-- The state with the instruction whose bits are `w` stored where Fetch reads next (log 11). -/
def State.withFetchWord (s : State) (nbits w : Nat) : State :=
  { xlen := s.xlen, core := loadFetchWord s.core nbits w }

end Sys2Proof.Machine
end

