-- ==== Sys2Proof/Machine/Assembler.lean ====
section
/-! DEFINITION. The assembler syntax (30_encoding.md R114): from program text to the records of a program. Reading never
fails; what the grammar does not admit becomes a record that static validation refuses with the fault R114 names
(log 13). -/

namespace Sys2Proof.Machine

/-- `ws`: a space or a tab. -/
def isBlank (c : Char) : Bool := c == ' ' || c == '\t'

/-- The value of a decimal digit. -/
def digitValue (c : Char) : Option Nat :=
  if '0'.toNat ≤ c.toNat ∧ c.toNat ≤ '9'.toNat then some (c.toNat - '0'.toNat) else none

/-- Read digits after a value already read; none at a character that is no digit. -/
def readDigits : Nat → List Char → Option Nat
  | acc, [] => some acc
  | acc, c :: cs =>
    match digitValue c with
    | some d => readDigits (acc * 10 + d) cs
    | none => none

/-- `digit { digit }`. -/
def readNumber : List Char → Option Nat
  | [] => none
  | c :: cs => readDigits 0 (c :: cs)

/-- The index of `register ::= "R" ( "0" | nzdigit { digit } )`, after its `R`. -/
def readRegisterIndex : List Char → Option Nat
  | ['0'] => some 0
  | '0' :: _ => none
  | cs => readNumber cs

/-- An immediate, after its sign: negated or not. -/
def readMagnitude (negative : Bool) (cs : List Char) : Option Int :=
  match readNumber cs with
  | some n => some (if negative then -(n : Int) else (n : Int))
  | none => none

/-- `immediate ::= [ "+" | "-" ] digit { digit }`. -/
def readImmediate : List Char → Option Int
  | '+' :: cs => readMagnitude false cs
  | '-' :: cs => readMagnitude true cs
  | cs => readMagnitude false cs

/-- `operand ::= register | immediate`; `PC` and `Z` are register identifiers (R110); anything else is unreadable. -/
def readOperand (cs : List Char) : RawOperand :=
  match cs with
  | ['P', 'C'] => .pc
  | ['Z'] => .zFlag
  | 'R' :: ds =>
    match readRegisterIndex ds with
    | some k => .reg k
    | none => .unreadable cs
  | _ =>
    match readImmediate cs with
    | some v => .imm v
    | none => .unreadable cs

/-- The characters before the first blank. -/
def takeWord : List Char → List Char
  | [] => []
  | c :: cs => if isBlank c then [] else c :: takeWord cs

/-- What follows them, from that blank on. -/
def dropWord : List Char → List Char
  | [] => []
  | c :: cs => if isBlank c then c :: cs else dropWord cs

/-- The text less its leading blanks. -/
def dropBlanks : List Char → List Char
  | [] => []
  | c :: cs => if isBlank c then dropBlanks cs else c :: cs

/-- The text less its trailing blanks. -/
def dropTrailingBlanks : List Char → List Char
  | [] => []
  | c :: cs =>
    match dropTrailingBlanks cs with
    | [] => if isBlank c then [] else [c]
    | d :: ds => c :: d :: ds

/-- Cut a text at a separator: the first piece, then the others. -/
def splitAt (sep : Char) : List Char → List Char × List (List Char)
  | [] => ([], [])
  | c :: cs =>
    if c == sep then ([], (splitAt sep cs).1 :: (splitAt sep cs).2)
    else (c :: (splitAt sep cs).1, (splitAt sep cs).2)

/-- The pieces of an operand list after the first, blanks dropped around each comma but not after the last. -/
def trimPieces : List (List Char) → List (List Char)
  | [] => []
  | [p] => [dropBlanks p]
  | p :: ps => dropTrailingBlanks (dropBlanks p) :: trimPieces ps

/-- The operand texts of an operand list `operand { ws? "," ws? operand }`. -/
def operandTexts (cs : List Char) : List (List Char) :=
  match splitAt ',' cs with
  | (p, []) => [p]
  | (p, ps) => dropTrailingBlanks p :: trimPieces ps

/-- One line of assembler text as a record (`instr` of R114). -/
def readLine (line : List Char) : Record :=
  { op := .text (takeWord line),
    operands :=
      match dropWord line with
      | [] => []
      | rest => (operandTexts (dropBlanks rest)).map readOperand }

/-- The lines of a program text. DESIGN CHOICE (log 13): R114 puts one instruction on a line and does not say what ends a
line; here the newline character alone does, so a carriage return is a character of the line it stands in, and a final end
of line adds no line. -/
def textLines (text : List Char) : List (List Char) :=
  match text with
  | [] => []
  | _ =>
    match splitAt '\n' text with
    | (l, ls) => l :: (match ls.getLast? with
        | some [] => ls.dropLast
        | _ => ls)

/-- A program text as the elements of a program store: one instruction a line, in order (R114). -/
def assemble {xlen : Nat} (text : List Char) : List (ProgItem xlen) := (textLines text).map (fun l => .record (readLine l))

end Sys2Proof.Machine
end

