-- ==== Sys2Proof/Safety.lean ====
section
/-! DEFINITION. What counts as a safe run, in the terms the statements use: the shape of a well-formed state, the cache's
transparency, the counters' bounds, several steps in a row, and the state of a drained pipeline. -/

namespace Sys2Proof.Machine

variable {xlen : Nat}

/-! ### The operand table (30_encoding.md R108) -/

/-- The destination of each opcode (R108). -/
def destOf : Instr → Option Nat
  | .nop => none
  | .add rd _ _ => some rd
  | .sub rd _ _ => some rd
  | .mul rd _ _ => some rd
  | .and rd _ _ => some rd
  | .shl rd _ _ => some rd
  | .mov rd _ => some rd
  | .load rd _ => some rd
  | .store _ _ => none
  | .cmp _ _ => none
  | .jmp _ => none
  | .jz _ => none
  | .jnz _ => none
  | .je _ => none

/-- The source operands of each opcode, in order (R108). -/
def srcsOf : Instr → List Operand
  | .nop => []
  | .add _ a b => [a, b]
  | .sub _ a b => [a, b]
  | .mul _ a b => [a, b]
  | .and _ a b => [a, b]
  | .shl _ a b => [a, b]
  | .mov _ a => [a]
  | .load _ a => [a]
  | .store rs a => [.reg rs, a]
  | .cmp a b => [a, b]
  | .jmp _ => []
  | .jz _ => []
  | .jnz _ => []
  | .je _ => []

/-- The target of a branch (R107). -/
def targetOf : Instr → Option Int
  | .jmp t => some t
  | .jz t => some t
  | .jnz t => some t
  | .je t => some t
  | _ => none

/-- The instructions that write Z (10_state.md R37, R38). -/
def writesZ : Instr → Bool
  | .add _ _ _ => true
  | .sub _ _ _ => true
  | .mul _ _ _ => true
  | .and _ _ _ => true
  | .shl _ _ _ => true
  | .cmp _ _ => true
  | _ => false

/-- Whether the entry carries a result past Execute: all but NOP and the branches. -/
def carriesResult : Instr → Bool
  | .nop => false
  | .jmp _ => false
  | .jz _ => false
  | .jnz _ => false
  | .je _ => false
  | _ => true

/-- STORE, the one entry that carries an `sval` (10_state.md R42). -/
def isStore : Instr → Bool
  | .store _ _ => true
  | _ => false

/-- JMP, which leaves the pipe in Decode (44_control.md R232). -/
def isJmp : Instr → Bool
  | .jmp _ => true
  | _ => false

/-! ### Well-formed states -/

/-- The instruction is a valid one, and the one the program store holds at `idx` (10_state.md R42). -/
def fetchedFrom (s : CoreState xlen) (idx : Nat) (i : Instr) : Bool :=
  i.wf xlen s.params.numRegs &&
    (match s.prog[idx]? with
     | some p =>
       match decodeItem s.params.numRegs idx p with
       | .ok j => decide (j = i)
       | .error _ => false
     | none => false)

/-- The IF entry is what Fetch writes. -/
def ifFits (s : CoreState xlen) (f : IfEntry) : Bool := fetchedFrom s f.idx f.instr

/-- The ID entry is what Decode writes (R42, R43): the operand table's destination and sources, one value a source, the
hazard flag 0, never a JMP. -/
def idFits (s : CoreState xlen) (d : IdEntry xlen) : Bool :=
  fetchedFrom s d.idx d.instr && decide (d.dest = destOf d.instr) && decide (d.srcs = srcsOf d.instr)
    && decide (d.vals.length = d.srcs.length) && decide (d.target = (targetOf d.instr).map (word xlen))
    && !d.hazard && !isJmp d.instr

/-- The entry of EX, MEM or WB is what Execute writes. -/
def exFits (s : CoreState xlen) (e : ExEntry xlen) : Bool :=
  fetchedFrom s e.idx e.instr && decide (e.dest = destOf e.instr)
    && decide (e.result.isSome = carriesResult e.instr) && decide (e.sval.isSome = isStore e.instr) && !isJmp e.instr

/-- Every populated latch holds what its stage writes. -/
def latchesFit (s : CoreState xlen) : Bool :=
  s.ifL.all (ifFits s) && s.idL.all (idFits s) && s.exL.all (exFits s) && s.memL.all (exFits s) && s.wbL.all (exFits s)

/-- Every address of a memory list exists: it is below `n`. -/
def addressesBelow (n : Nat) (m : Memory xlen) : Bool := m.all (fun c => decide (c.1 < n))

/-- The register file, the cache and Main have the sizes of the parameters, and Main is in canonical form. -/
def storageFits (s : CoreState xlen) : Bool :=
  decide (s.regs.length = s.params.numRegs) && decide (s.cache.length = s.params.numLines)
    && s.cache.all (fun l => decide (l.data.length = s.params.blockSize))
    && s.main.wf && addressesBelow s.params.memSize s.main

/-- The interrupt controller between cycles (60_exceptions.md R272). -/
def controllerAtRest (s : CoreState xlen) : Bool := decide (s.istate = { mode := .normal, savedPC := none })

/-- A program that is running passed static validation (30_encoding.md R111). -/
def programFits (s : CoreState xlen) : Bool :=
  progLenOk xlen s.prog.length
    && (match s.status with
        | .running => (firstStaticFault s.params.numRegs 0 s.prog).isNone
        | _ => true)

/-- The well-formed states: what every step keeps, and what keeps the model's own faults unreachable. -/
def CoreState.wf (s : CoreState xlen) : Bool :=
  s.params.wf && programFits s && storageFits s && latchesFit s && controllerAtRest s
    && decide (s.signals = Signals.rest)

/-- The address a word of a cache line stands for (20_memory.md R79). -/
def lineAddress (p : Params xlen) (i tag j : Nat) : Nat := tag * p.blockSize * p.numLines + i * p.blockSize + j

/-- The transparency invariant (20_memory.md R86): every valid line equals main memory. -/
abbrev Transparent (s : CoreState xlen) : Prop :=
  ∀ i < s.params.numLines, (lineAt s i).valid = true →
    ∀ j < s.params.blockSize, (lineAt s i).data[j]? = some (readMain s.main (lineAddress s.params i (lineAt s i).tag j))

/-- The counters' bounds (10_state.md R40). A cycle that a raise ends may have counted its cache read and is itself not
counted (60_exceptions.md R265), so the last bound is one weaker once the run is faulted. DESIGN CHOICE (log 17): R40 itself names
no exception. -/
def countersBounded (s : CoreState xlen) : Bool :=
  decide (s.metrics.cycles ≤ s.maxCycles) && decide (s.metrics.stalls + s.metrics.interrupts ≤ s.metrics.cycles)
    && decide (s.metrics.cacheHits + s.metrics.cacheMisses
        ≤ s.metrics.cycles + (match s.status with | .faulted _ => 1 | _ => 0))

/-! ### Runs -/

/-- `n` steps in a row, stopping at the first that answers no next state. -/
def runSteps : Nat → State → Result
  | 0, s => .next s
  | n + 1, s =>
    match step s with
    | .next t => runSteps n t
    | .fault f => .fault f
    | .refused r => .refused r

/-- The next step runs the five stage functions: the run is under way, it neither ends nor is capped after the host's
action, and no interrupt is pending (70_reset_and_hazards.md R304, 40_pipeline.md R130). -/
def runsStages (s : CoreState xlen) : Bool :=
  decide (s.status = .running) && !isDone (hostAction s) && !isCapped (hostAction s) && !interruptPending (hostAction s)

/-- All five latches are empty. -/
def isDrained (s : CoreState xlen) : Bool :=
  s.ifL.isNone && s.idL.isNone && s.exL.isNone && s.memL.isNone && s.wbL.isNone

/-- For the next `n` cycles the run is under way, below its cap, and no interrupt comes. -/
def quietFor (n : Nat) (s : CoreState xlen) : Bool :=
  decide (s.status = .running) && !s.dev.ready && decide (s.metrics.cycles + n ≤ s.maxCycles)
    && s.triggers.all (fun t => decide (t.1 < s.metrics.cycles) || decide (s.metrics.cycles + n ≤ t.1))

/-- The instruction at PC is the last of the program, and is `i`. -/
def lastInstrAtPC (s : CoreState xlen) (i : Instr) : Bool :=
  decide (sx s.pc + 1 = s.prog.length)
    && (match recordAtPC s with
        | some (.ok j) => decide (j = i)
        | _ => false)

/-- The instruction `i` stands alone before the pipeline: nothing in flight, nothing behind it, five quiet cycles ahead. -/
def startsAlone (s : CoreState xlen) (i : Instr) : Bool :=
  isDrained s && quietFor 5 s && controllerAtRest s && lastInstrAtPC s i

/-- The value of an operand in the architectural registers. -/
def archValue (s : CoreState xlen) : Operand → Option (Word xlen)
  | .imm v => some (word xlen v)
  | .reg k => s.regs[k]?

end Sys2Proof.Machine
end

