-- ==== Sys2Proof/Certificates/Slice0/Obligations.lean ====
section
/-! DEFINITION. The statements about the machine, each a proposition under `Obligations`. -/

open Sys2Proof Sys2Proof.Machine

/-! ### Helpers of the statements -/

/-- The EX entry Execute makes of an ID entry (40_pipeline.md R145). -/
def Sys2Proof.Machine.executedEntry {xlen : Nat} (d : IdEntry xlen) (result sval : Option (Word xlen)) : ExEntry xlen :=
  { idx := d.idx, instr := d.instr, dest := d.dest, result := result, sval := sval }

/-- No populated latch entry has register `k` as its destination. -/
def Sys2Proof.Machine.noWriter {xlen : Nat} (k : Nat) (l : Option (ExEntry xlen)) : Prop := ∀ e, l = some e →
    e.dest ≠ some k

/-- One slot of a record word read as an operand (30_encoding.md R104, R106). -/
def Sys2Proof.slotReads {xlen : Nat} (k : BitVec 2) (v : Word xlen) (o : Option Operand) : Prop :=
  (k = 0b01#2 ∧ o = some (.reg (ux v))) ∨ (k = 0b10#2 ∧ o = some (.imm (sx v))) ∨ (k = 0b00#2 ∧ v = 0 ∧ o = none)

/-- Kind `01`, a register, or `10`, an immediate (30_encoding.md R103). -/
def Sys2Proof.regOrImmKind (k : BitVec 2) : Prop := k = 0b01#2 ∨ k = 0b10#2

/-- The slot kinds each opcode admits: the last column of the table of 30_encoding.md R107. -/
def Sys2Proof.kindsAdmitted (op : Opcode) (k0 k1 k2 : BitVec 2) : Prop :=
  match op with
  | .nop => k0 = 0b00#2 ∧ k1 = 0b00#2 ∧ k2 = 0b00#2
  | .add | .sub | .mul | .and | .shl => k0 = 0b01#2 ∧ regOrImmKind k1 ∧ regOrImmKind k2
  | .mov | .load | .store => k0 = 0b01#2 ∧ regOrImmKind k1 ∧ k2 = 0b00#2
  | .cmp => regOrImmKind k0 ∧ regOrImmKind k1 ∧ k2 = 0b00#2
  | .jmp | .jz | .jnz | .je => k0 = 0b10#2 ∧ k1 = 0b00#2 ∧ k2 = 0b00#2

/-- A register identifier: `Rk`, `PC` or `Z` (30_encoding.md R110). -/
def Sys2Proof.isRegisterName (o : RawOperand) : Prop := (∃ k, o = .reg k) ∨ o = .pc ∨ o = .zFlag

/-- An operand of class `R|I` (30_encoding.md R107). -/
def Sys2Proof.isSource (o : RawOperand) : Prop := isRegisterName o ∨ ∃ v, o = .imm v

/-- The operand lists each opcode admits (30_encoding.md R107). -/
def Sys2Proof.admits (op : Opcode) (os : List RawOperand) : Prop :=
  match op with
  | .nop => os = []
  | .add | .sub | .mul | .and | .shl => ∃ rd a b, os = [rd, a, b] ∧ isRegisterName rd ∧ isSource a ∧ isSource b
  | .mov | .load | .store => ∃ r a, os = [r, a] ∧ isRegisterName r ∧ isSource a
  | .cmp => ∃ a b, os = [a, b] ∧ isSource a ∧ isSource b
  | .jmp | .jz | .jnz | .je => ∃ v, os = [.imm v]

/-- The operand names a register no instruction accepts (30_encoding.md R110), and how it is reported. -/
def Sys2Proof.namesMissing (numRegs : Nat) (o : RawOperand) (name : RegName) : Prop :=
  (∃ k, o = .reg k ∧ numRegs ≤ k ∧ name = .index k) ∨ (o = .pc ∧ name = .pc) ∨ (o = .zFlag ∧ name = .zFlag)

/-- An operand as a record writes it. -/
def Sys2Proof.rawOperand : Operand → RawOperand
  | .reg k => .reg k
  | .imm v => .imm v

/-- The step of the instruction in a latch, or the bubble when the latch is empty. -/
def Sys2Proof.Machine.runsOrBubbles {xlen : Nat} (o : Option Instr) (run : Instr → Result)
    (bubble t : CoreState xlen) : Prop :=
  (∀ i, o = some i → run i = .next ⟨_, t⟩) ∧ (o = none → t = bubble)

/-- The state one instruction leaves after passing a drained pipeline alone, with the registers, flag, memory, cache and
counters given: PC is past it, its entry is in WB, the other latches are empty, all else is as it was. -/
def Sys2Proof.Machine.passedAlone {xlen : Nat} (s t : CoreState xlen) (regs : List (Word xlen)) (z : Bool)
    (main : Memory xlen) (cache : List (Line xlen)) (hits misses : Nat) : Prop :=
  t.regs = regs ∧ t.z = z ∧ t.main = main ∧ t.cache = cache ∧ t.pc = s.pc + 1 ∧
  t.ifL = none ∧ t.idL = none ∧ t.exL = none ∧ t.memL = none ∧ t.wbL.isSome = true ∧
  t.metrics = { s.metrics with cycles := s.metrics.cycles + 5, cacheHits := hits, cacheMisses := misses } ∧
  t.params = s.params ∧ t.prog = s.prog ∧ t.istate = s.istate ∧ t.dev = s.dev ∧ t.triggers = s.triggers ∧
  t.maxCycles = s.maxCycles ∧ t.status = s.status ∧ t.signals = Signals.rest

/-- An arithmetic instruction alone in the pipeline, on operand values that meet `ok`: five cycles write `f va vb` to `rd`
and its zero flag, and change nothing else. -/
def Sys2Proof.Machine.arithmeticPasses {xlen : Nat} (mk : Nat → Operand → Operand → Instr)
    (ok : Word xlen → Prop) (f : Word xlen → Word xlen → Word xlen) : Prop :=
  ∀ (s : CoreState xlen) (rd : Nat) (a b : Operand) (va vb : Word xlen),
    startsAlone s (mk rd a b) = true → rd < s.regs.length → archValue s a = some va → archValue s b = some vb → ok vb →
    ∃ t : CoreState xlen, runSteps 5 ⟨_, s⟩ = .next ⟨_, t⟩ ∧
      passedAlone s t (s.regs.set rd (f va vb)) (decide (f va vb = 0)) s.main s.cache
        s.metrics.cacheHits s.metrics.cacheMisses

/-! ### Encoding and static validation -/

/-- 30_encoding.md R106, "Encoding is the inverse": the record word of a well-formed instruction decodes to it. -/
def Obligations.EncodedInstructionDecodesBack : Prop :=
  ∀ (xlen numRegs idx : Nat) (i : Instr), 2 ≤ xlen → numRegs ≤ 2 ^ xlen → i.wf xlen numRegs = true →
    decodeWord numRegs idx (encode xlen i) = .ok i

/-- R106: an accepted word's opcode field holds the instruction's code, each slot reads as the operand in its place, and
the record encodes back to the same word. -/
def Obligations.AcceptedWordReadsAsItsRecord : Prop :=
  ∀ (xlen numRegs idx : Nat) (w : RecordWord xlen) (i : Instr), decodeWord numRegs idx w = .ok i →
    (opcField w).toNat = i.opcode.code ∧
    slotReads (kind0 w) (value0 w) i.operands[0]? ∧
    slotReads (kind1 w) (value1 w) i.operands[1]? ∧
    slotReads (kind2 w) (value2 w) i.operands[2]? ∧
    encode xlen i = w

/-- Words of 95_test_vectors.md section 2, one a family, decode to their instructions. -/
def Obligations.SpecEncodingsDecode : Prop :=
  decodeTableWord 112 0x0 = some .nop ∧
  decodeTableWord 112 0x8000000040000000d51 = some (.add 3 (.reg 1) (.reg 2)) ∧
  decodeTableWord 112 0x10000000040000000a55 = some (.shl 2 (.reg 1) (.imm 4)) ∧
  decodeTableWord 112 0x140000000496 = some (.mov 1 (.imm 5)) ∧
  decodeTableWord 112 0x140000000498 = some (.store 1 (.imm 5)) ∧
  decodeTableWord 112 0xc0000000ca9 = some (.cmp (.imm 3) (.imm 3)) ∧
  decodeTableWord 112 0x3fffffffc2a = some (.jmp (-1))

/-- R112: the reserved opcode codes 14 and 15 are `UnknownOpcode`. -/
def Obligations.ReservedOpcodeIsUnknown : Prop :=
  ∀ (xlen numRegs idx : Nat) (w : RecordWord xlen), 14 ≤ (opcField w).toNat →
    decodeWord numRegs idx w = .error
      { kind := .unknownOpcode, idx := idx, info := .opcode (.code (opcField w).toNat), cycle := none }

/-- R105, R107: a reserved kind, a none slot with a nonzero value, a none slot before a used one, or an operand count or
kind that the opcode does not admit is `MalformedOperands`, and a program of that word is refused at load. The opcode is a
known one (check (1) of R111 comes first). -/
def Obligations.MalformedWordIsRefused : Prop :=
  ∀ (xlen numRegs idx : Nat) (w : RecordWord xlen), (opcField w).toNat < 14 →
    (kind0 w = 0b11#2 ∨ kind1 w = 0b11#2 ∨ kind2 w = 0b11#2 ∨
     (kind0 w = 0b00#2 ∧ value0 w ≠ 0) ∨ (kind1 w = 0b00#2 ∧ value1 w ≠ 0) ∨ (kind2 w = 0b00#2 ∧ value2 w ≠ 0) ∨
     (kind0 w = 0b00#2 ∧ kind1 w ≠ 0b00#2) ∨ (kind0 w = 0b00#2 ∧ kind2 w ≠ 0b00#2) ∨
     (kind1 w = 0b00#2 ∧ kind2 w ≠ 0b00#2) ∨
     (∃ op, opcodeOfCode (opcField w).toNat = some op ∧ ¬ kindsAdmitted op (kind0 w) (kind1 w) (kind2 w))) →
    decodeWord numRegs idx w = .error { kind := .malformedOperands, idx := idx, info := .nothing, cycle := none } ∧
    ∀ p : Params xlen, loadStatus p [.word w]
      = .refused { kind := .malformedOperands, idx := 0, info := .nothing, cycle := none }

/-- R110: an instruction of a right shape that names a register which does not exist is `InvalidRegister`, reported with
that register and its position. -/
def Obligations.MissingRegisterIsInvalid : Prop :=
  ∀ (xlen numRegs idx : Nat) (i : Instr), i.wf xlen (2 ^ xlen) = true → i.wf xlen numRegs = false →
    ∃ pos k, i.operands[pos]? = some (.reg k) ∧ numRegs ≤ k ∧
      decodeWord numRegs idx (encode xlen i) = .error
        { kind := .invalidRegister, idx := idx, info := .register pos (.index k), cycle := none }

/-- R107, R109, R110, R111 on records, for every opcode and every operand list: what R107 does not admit is
`MalformedOperands`; else the first register that does not exist, `PC` and `Z` among them, is `InvalidRegister`; else the
first immediate out of range is `ImmediateOutOfRange`; else the record is the instruction of that opcode with those
operands. `PC` or `Z` where R107 admits an immediate only is not admitted, and that of several bad operands the first is
reported is the model's reading (log 14). -/
def Obligations.RecordOperandsAreChecked : Prop :=
  ∀ (xlen numRegs idx : Nat) (r : Record) (op : Opcode), opcodeOf r.op = some op →
    (¬ admits op r.operands →
      validateRecord xlen numRegs idx r = .error
        { kind := .malformedOperands, idx := idx, info := .nothing, cycle := none }) ∧
    (admits op r.operands →
      (∀ pos o name, r.operands[pos]? = some o → namesMissing numRegs o name →
        (∀ j < pos, ∀ o', r.operands[j]? = some o' → ∀ n, ¬ namesMissing numRegs o' n) →
        validateRecord xlen numRegs idx r = .error
          { kind := .invalidRegister, idx := idx, info := .register pos name, cycle := none }) ∧
      ((∀ o ∈ r.operands, ∀ n, ¬ namesMissing numRegs o n) →
        (∀ pos v, r.operands[pos]? = some (.imm v) → ¬ (-(2 ^ (xlen - 1)) ≤ v ∧ v < 2 ^ (xlen - 1)) →
          (∀ j < pos, ∀ u, r.operands[j]? = some (.imm u) → -(2 ^ (xlen - 1)) ≤ u ∧ u < 2 ^ (xlen - 1)) →
          validateRecord xlen numRegs idx r = .error
            { kind := .immediateOutOfRange, idx := idx, info := .immediate pos v, cycle := none }) ∧
        ((∀ v, .imm v ∈ r.operands → -(2 ^ (xlen - 1)) ≤ v ∧ v < 2 ^ (xlen - 1)) →
          ∃ i, validateRecord xlen numRegs idx r = .ok i ∧ i.opcode = op ∧ i.operands.map rawOperand = r.operands)))

/-- R111, 60_exceptions.md R268 (a): the first failing index refuses the whole program with its fault; a program that
passes everywhere runs. -/
def Obligations.FirstFailingIndexRefusesProgram : Prop :=
  ∀ (xlen : Nat) (p : Params xlen) (prog : List (ProgItem xlen)),
    (∀ (k : Nat) (item : ProgItem xlen) (r : FaultRecord), prog[k]? = some item →
    decodeItem p.numRegs k item = .error r →
      (∀ j < k, ∀ it, prog[j]? = some it → ∃ i, decodeItem p.numRegs j it = .ok i) →
      loadStatus p prog = .refused r) ∧
    ((∀ (j : Nat) (it : ProgItem xlen), prog[j]? = some it → ∃ i, decodeItem p.numRegs j it = .ok i) →
      loadStatus p prog = .running)

/-! ### Reset -/

/-- 10_state.md R55, 70_reset_and_hazards.md R300: what reset leaves, for any inputs of a run; `init_mem` gives an
address one value. -/
def Obligations.ResetGivesEveryItemItsValue : Prop :=
  ∀ (inp : RunInputs) (dev : Device inp.xlen),
    (∀ k < inp.params.numRegs, (assertReset inp dev).regs[k]? = some (inp.initRegs.getD k 0)) ∧
    (assertReset inp dev).regs.length = inp.params.numRegs ∧
    (assertReset inp dev).z = false ∧ (assertReset inp dev).pc = 0 ∧ isDrained (assertReset inp dev) = true ∧
    (∀ i < inp.params.numLines, (assertReset inp dev).cache[i]?
      = some { valid := false, tag := 0, data := List.replicate inp.params.blockSize 0 }) ∧
    (assertReset inp dev).cache.length = inp.params.numLines ∧
    ((inp.initMem.map (·.1)).Nodup → ∀ a, readMain (assertReset inp dev).main a = (inp.initMem.lookup a).getD 0) ∧
    (assertReset inp dev).metrics = { cycles := 0, stalls := 0, cacheHits := 0, cacheMisses := 0, interrupts := 0 } ∧
    (assertReset inp dev).istate = { mode := .normal, savedPC := none } ∧
    (assertReset inp dev).dev = dev

/-- `State.reset` (whose width, parameters, empty program and cap are the model's choices, log 1, 2, 5, 11) is well formed,
transparent and within the counters' bounds. -/
def Obligations.ResetStateIsSafe : Prop :=
  State.reset.core.wf = true ∧ Transparent State.reset.core ∧ countersBounded State.reset.core = true

/-- Reset from any inputs that meet 00_scope.md R7 is well formed and transparent, refused or not. -/
def Obligations.ResetFromLegalInputsIsSafe : Prop :=
  ∀ (inp : RunInputs) (dev : Device inp.xlen), inp.params.wf = true → progLenOk inp.xlen inp.prog.length = true →
    inp.initMem.all (fun c => decide (c.1 < inp.params.memSize)) = true →
    (assertReset inp dev).wf = true ∧ Transparent (assertReset inp dev) ∧ countersBounded (assertReset inp dev) = true

/-! ### The stages, instruction by instruction -/

/-- 40_pipeline.md R134: Fetch loads the instruction at PC and advances PC by one when PC is in bounds, empties IF when it
is not, and does nothing while `fetch_en` is 0. -/
def Obligations.FetchLoadsInstructionAtPC : Prop :=
  ∀ (xlen : Nat) (s : CoreState xlen),
    (s.signals.fetchEn = true →
      (∀ item i, 0 ≤ sx s.pc → sx s.pc < s.prog.length → s.prog[(sx s.pc).toNat]? = some item →
        decodeItem s.params.numRegs (sx s.pc).toNat item = .ok i →
        ∃ t : CoreState xlen, fetchStage s = .next ⟨_, t⟩ ∧ t.ifL = some { idx := (sx s.pc).toNat, instr := i } ∧
          (progLenOk xlen s.prog.length = true → sx t.pc = sx s.pc + 1) ∧
          t = ((s.atStage .fetch).setIF t.ifL).setPc t.pc) ∧
      (¬ (0 ≤ sx s.pc ∧ sx s.pc < s.prog.length) → fetchStage s = .next ⟨_, s.setIF none⟩)) ∧
    (s.signals.fetchEn = false → fetchStage s = .next ⟨_, s⟩)

/-- R134 for every instruction's meaning: in Fetch it enters IF with its index, and PC goes up by one. -/
def Obligations.EveryInstructionEntersIF : Prop :=
  ∀ (xlen : Nat) (i : Instr) (s : CoreState xlen), s.signals.stage = .fetch →
    exec i ⟨_, s⟩ = .next ⟨_, (s.setIF (some { idx := ux s.pc, instr := i })).setPc (s.pc + 1)⟩

/-- R135, R143, 30_encoding.md R108: a decoded instruction that is no branch and does not stall enters ID with its
destination, its sources and their resolved values, and nothing else changes. -/
def Obligations.DecodeWritesResolvedEntry : Prop :=
  ∀ (xlen : Nat) (i : Instr) (s : CoreState xlen) (f : IfEntry) (vs : List (Word xlen)), targetOf i = none →
    s.signals.stage = .decode → s.ifL = some f → resolveAll (srcsOf i) s = .values vs →
    exec i ⟨_, s⟩ = .next ⟨_, { s with
      idL := some { idx := f.idx, instr := i, dest := destOf i, srcs := srcsOf i, vals := vs, target := none,
                    hazard := false } }⟩

/-- R139: on the load-use hazard Decode writes a bubble to ID, counts the stall and holds Fetch for this cycle; IF and PC
keep their values, and nothing else changes. -/
def Obligations.LoadUseHazardStalls : Prop :=
  ∀ (xlen : Nat) (i : Instr) (s : CoreState xlen) (f : IfEntry), targetOf i = none →
    s.signals.stage = .decode → s.ifL = some f → resolveAll (srcsOf i) s = .stall →
    exec i ⟨_, s⟩ = .next ⟨_, { s with
      idL := none, metrics := { s.metrics with stalls := s.metrics.stalls + 1 },
      signals := { s.signals with fetchEn := false } }⟩

/-- R136: the four checks of operand resolution, in their order, and the immediate. -/
def Obligations.OperandResolutionOrder : Prop :=
  ∀ (xlen : Nat) (s : CoreState xlen) (k : Nat) (w : Word xlen),
    (∀ v, resolve (.imm v) s = .value (word xlen v)) ∧
    (∀ e, s.wbL = some e → e.dest = some k → e.result = some w → resolve (.reg k) s = .value w) ∧
    (noWriter k s.wbL →
      (∀ e, s.memL = some e → e.dest = some k → e.result = some w → resolve (.reg k) s = .value w) ∧
      (noWriter k s.memL →
        (∀ e, s.exL = some e → e.dest = some k → e.instr.opcode = .load → resolve (.reg k) s = .stall) ∧
        (∀ e, s.exL = some e → e.dest = some k → e.instr.opcode ≠ .load → e.result = some w →
          resolve (.reg k) s = .value w) ∧
        (noWriter k s.exL → s.regs[k]? = some w → resolve (.reg k) s = .value w)))

/-- R141, R142: a taken branch sets PC to its target, flushes IF and ID and suppresses Fetch; one not taken enters ID with
no destination and no sources. JMP is always taken, JZ and JE when Z = 1, JNZ when Z = 0. -/
def Obligations.BranchResolutionInDecode : Prop :=
  ∀ (xlen : Nat) (s : CoreState xlen) (f : IfEntry) (t : Int), s.signals.stage = .decode → s.ifL = some f →
    (let taken : CoreState xlen :=
       { s with pc := word xlen t, ifL := none, idL := none, signals := { s.signals with fetchEn := false } }
     let passed : Instr → CoreState xlen := fun i =>
       { s with idL := some { idx := f.idx, instr := i, dest := none, srcs := [], vals := [],
                              target := some (word xlen t), hazard := false } }
     exec (.jmp t) ⟨_, s⟩ = .next ⟨_, taken⟩ ∧
     (s.z = true → exec (.jz t) ⟨_, s⟩ = .next ⟨_, taken⟩ ∧ exec (.je t) ⟨_, s⟩ = .next ⟨_, taken⟩ ∧
       exec (.jnz t) ⟨_, s⟩ = .next ⟨_, passed (.jnz t)⟩) ∧
     (s.z = false → exec (.jnz t) ⟨_, s⟩ = .next ⟨_, taken⟩ ∧ exec (.jz t) ⟨_, s⟩ = .next ⟨_, passed (.jz t)⟩ ∧
       exec (.je t) ⟨_, s⟩ = .next ⟨_, passed (.je t)⟩))

/-- 41_arithmetic.md R182 to R185 in Execute: the result is the sum, difference, product or bitwise and modulo 2^XLEN, Z
says whether it is zero, and nothing else changes. -/
def Obligations.ArithmeticExecutesResultAndZ : Prop :=
  ∀ (xlen : Nat) (s : CoreState xlen) (rd : Nat) (a b : Operand) (d : IdEntry xlen) (va vb : Word xlen),
    s.signals.stage = .execute → s.idL = some d → d.vals = [va, vb] →
    exec (.add rd a b) ⟨_, s⟩
      = .next ⟨_, { s with exL := some (executedEntry d (some (va + vb)) none), z := decide (va + vb = 0) }⟩ ∧
    exec (.sub rd a b) ⟨_, s⟩
      = .next ⟨_, { s with exL := some (executedEntry d (some (va - vb)) none), z := decide (va = vb) }⟩ ∧
    exec (.mul rd a b) ⟨_, s⟩
      = .next ⟨_, { s with exL := some (executedEntry d (some (va * vb)) none), z := decide (va * vb = 0) }⟩ ∧
    exec (.and rd a b) ⟨_, s⟩
      = .next ⟨_, { s with exL := some (executedEntry d (some (va &&& vb)) none), z := decide (va &&& vb = 0) }⟩

/-- R186: SHL by a nonnegative signed amount shifts left, to 0 from XLEN on; Z says whether the result is zero, and nothing
else changes. -/
def Obligations.ShiftExecutesResultAndZ : Prop :=
  ∀ (xlen : Nat) (s : CoreState xlen) (rd : Nat) (a b : Operand) (d : IdEntry xlen) (va vb : Word xlen),
    s.signals.stage = .execute → s.idL = some d → d.vals = [va, vb] → 0 ≤ sx vb →
    exec (.shl rd a b) ⟨_, s⟩
      = .next ⟨_, { s with
          exL := some (executedEntry d (some (va <<< (sx vb).toNat)) none), z := decide (va <<< (sx vb).toNat = 0) }⟩ ∧
    ((xlen : Int) ≤ sx vb → va <<< (sx vb).toNat = 0)

/-- 60_exceptions.md R263: SHL by a negative signed amount raises `NegativeShift`. -/
def Obligations.NegativeShiftRaises : Prop :=
  ∀ (xlen : Nat) (s : CoreState xlen) (rd : Nat) (a b : Operand) (d : IdEntry xlen) (va vb : Word xlen),
    s.signals.stage = .execute → s.idL = some d → d.vals = [va, vb] → sx vb < 0 →
    exec (.shl rd a b) ⟨_, s⟩ = .fault (.negativeShift d.idx (sx vb))

/-- 42_data_movement.md R202 to R204 in Execute: MOV and LOAD pass their source value, STORE its address and its value;
Z and everything else keep their values. -/
def Obligations.DataMovementExecutesWithoutZ : Prop :=
  ∀ (xlen : Nat) (s : CoreState xlen) (r : Nat) (a : Operand) (d : IdEntry xlen), s.signals.stage = .execute →
    s.idL = some d →
    (∀ va, d.vals = [va] →
      exec (.mov r a) ⟨_, s⟩ = .next ⟨_, { s with exL := some (executedEntry d (some va) none) }⟩ ∧
      exec (.load r a) ⟨_, s⟩ = .next ⟨_, { s with exL := some (executedEntry d (some va) none) }⟩) ∧
    (∀ vs va, d.vals = [vs, va] →
      exec (.store r a) ⟨_, s⟩ = .next ⟨_, { s with exL := some (executedEntry d (some va) (some vs)) }⟩)

/-- 43_compare.md R220 in Execute: Z says whether the two words are equal; the difference travels as the result. -/
def Obligations.CompareExecutesEquality : Prop :=
  ∀ (xlen : Nat) (s : CoreState xlen) (a b : Operand) (d : IdEntry xlen) (va vb : Word xlen),
    s.signals.stage = .execute → s.idL = some d → d.vals = [va, vb] →
    exec (.cmp a b) ⟨_, s⟩
      = .next ⟨_, { s with exL := some (executedEntry d (some (va - vb)) none), z := decide (va = vb) }⟩

/-- 45_nop.md R250, 44_control.md R233 to R235 in Execute: NOP and a branch not taken pass with no result, no value and Z
unwritten. -/
def Obligations.NopAndPassedBranchExecuteNothing : Prop :=
  ∀ (xlen : Nat) (s : CoreState xlen) (t : Int) (d : IdEntry xlen), s.signals.stage = .execute → s.idL = some d →
    exec .nop ⟨_, s⟩ = .next ⟨_, { s with exL := some (executedEntry d none none) }⟩ ∧
    exec (.jz t) ⟨_, s⟩ = .next ⟨_, { s with exL := some (executedEntry d none none) }⟩ ∧
    exec (.jnz t) ⟨_, s⟩ = .next ⟨_, { s with exL := some (executedEntry d none none) }⟩ ∧
    exec (.je t) ⟨_, s⟩ = .next ⟨_, { s with exL := some (executedEntry d none none) }⟩

/-- R146: Memory-access passes every instruction but LOAD and STORE through unchanged. -/
def Obligations.MemoryAccessPassesOthersThrough : Prop :=
  ∀ (xlen : Nat) (i : Instr) (s : CoreState xlen) (e : ExEntry xlen), i.opcode ≠ .load → i.opcode ≠ .store →
    s.signals.stage = .memoryAccess → s.exL = some e → exec i ⟨_, s⟩ = .next ⟨_, { s with memL := some e }⟩

/-- 20_memory.md R80, R81 through LOAD: a hit returns the line's word and counts a hit; a miss counts a miss, fills the
whole aligned block, sets valid and tag, and returns the word of Main; nothing else changes. -/
def Obligations.LoadReadsThroughCache : Prop :=
  ∀ (xlen : Nat) (s : CoreState xlen) (rd : Nat) (a : Operand) (e : ExEntry xlen) (w : Word xlen) (line : Line xlen),
    s.signals.stage = .memoryAccess → s.exL = some e → e.result = some w →
    0 ≤ sx w → sx w < s.params.memSize → 0 < s.params.blockSize →
    s.cache[(sx w).toNat / s.params.blockSize % s.params.numLines]? = some line →
    (∀ v, line.valid = true → line.tag = (sx w).toNat / (s.params.blockSize * s.params.numLines) →
      line.data[(sx w).toNat % s.params.blockSize]? = some v →
      exec (.load rd a) ⟨_, s⟩ = .next ⟨_, { s with
        memL := some { e with result := some v },
        metrics := { s.metrics with cacheHits := s.metrics.cacheHits + 1 } }⟩) ∧
    ((line.valid = false ∨ line.tag ≠ (sx w).toNat / (s.params.blockSize * s.params.numLines)) →
      exec (.load rd a) ⟨_, s⟩ = .next ⟨_, { s with
        memL := some { e with result := some (readMain s.main (sx w).toNat) },
        cache := s.cache.set ((sx w).toNat / s.params.blockSize % s.params.numLines)
          { valid := true, tag := (sx w).toNat / (s.params.blockSize * s.params.numLines),
            data := (List.range s.params.blockSize).map (fun j =>
              readMain s.main ((sx w).toNat - (sx w).toNat % s.params.blockSize + j)) },
        metrics := { s.metrics with cacheMisses := s.metrics.cacheMisses + 1 } }⟩)

/-- R82, R83, R84 through STORE: Main takes the value at the address `sx(result)` and keeps every other word; a hit
writes the line too, a miss leaves it; no counter and nothing else changes. -/
def Obligations.StoreWritesThroughCache : Prop :=
  ∀ (xlen : Nat) (s : CoreState xlen) (rs : Nat) (a : Operand) (e : ExEntry xlen) (w v : Word xlen) (line : Line xlen),
    s.signals.stage = .memoryAccess → s.exL = some e → e.result = some w → e.sval = some v →
    0 ≤ sx w → sx w < s.params.memSize → s.main.wf = true →
    s.cache[(sx w).toNat / s.params.blockSize % s.params.numLines]? = some line →
    ∃ t : CoreState xlen, exec (.store rs a) ⟨_, s⟩ = .next ⟨_, t⟩ ∧
      readMain t.main (sx w).toNat = v ∧ (∀ b, b ≠ (sx w).toNat → readMain t.main b = readMain s.main b) ∧
      (line.valid = true ∧ line.tag = (sx w).toNat / (s.params.blockSize * s.params.numLines) →
        t.cache = s.cache.set ((sx w).toNat / s.params.blockSize % s.params.numLines)
          { line with data := line.data.set ((sx w).toNat % s.params.blockSize) v }) ∧
      (¬ (line.valid = true ∧ line.tag = (sx w).toNat / (s.params.blockSize * s.params.numLines)) →
        t.cache = s.cache) ∧
      t = { s with main := t.main, cache := t.cache, memL := some e }

/-- R76, 60_exceptions.md R262: an address outside [0, MEM_SIZE) raises `AddressOutOfRange` in Memory-access. -/
def Obligations.AddressOutOfRangeRaises : Prop :=
  ∀ (xlen : Nat) (s : CoreState xlen) (r : Nat) (a : Operand) (e : ExEntry xlen) (w : Word xlen),
    s.signals.stage = .memoryAccess → s.exL = some e → e.result = some w →
    (sx w < 0 ∨ s.params.memSize ≤ sx w) →
    exec (.load r a) ⟨_, s⟩ = .fault (.addressOutOfRange e.idx (sx w)) ∧
    (∀ v, e.sval = some v → exec (.store r a) ⟨_, s⟩ = .fault (.addressOutOfRange e.idx (sx w)))

/-- R147: Write-back commits the result of an instruction with a destination to that register alone, writes nothing for
the others, and leaves the entry in WB; an empty MEM empties WB. -/
def Obligations.WriteBackCommitsDestination : Prop :=
  ∀ (xlen : Nat) (i : Instr) (s : CoreState xlen) (m : ExEntry xlen), s.signals.stage = .writeBack → s.memL = some m →
    (∀ k v, destOf i ≠ none → m.dest = some k → m.result = some v → k < s.regs.length →
      exec i ⟨_, s⟩ = .next ⟨_, { s with wbL := some m, regs := s.regs.set k v }⟩) ∧
    (destOf i = none → exec i ⟨_, s⟩ = .next ⟨_, { s with wbL := some m }⟩) ∧
    (∀ u : CoreState xlen, u.memL = none → writeBackStage u = .next ⟨_, { u with wbL := none }⟩)

/-- R144: a stage whose upstream latch is empty empties its own latch and does nothing else; Execute does not write Z. -/
def Obligations.EmptyLatchesPropagate : Prop :=
  ∀ (xlen : Nat) (s : CoreState xlen),
    (s.memL = none → writeBackStage s = .next ⟨_, { s with wbL := none }⟩) ∧
    (s.exL = none → memoryStage s = .next ⟨_, { s with memL := none }⟩) ∧
    (s.idL = none → executeStage s = .next ⟨_, { s with exL := none }⟩) ∧
    (s.ifL = none → decodeStage s = .next ⟨_, { s with idL := none, signals := { s.signals with fetchEn := true } }⟩)

/-! ### A step -/

/-- 40_pipeline.md R130, R131: a step whose cycle runs the stages is `exec` of the instruction each latch held at the
start of the cycle, Write-back first, then the fetch, with `cycles` counted and the model's own signals at rest. -/
def Obligations.StepRunsInstructionsInFlight : Prop :=
  ∀ (xlen : Nat) (s s₁ s₂ s₃ s₄ s₅ : CoreState xlen), runsStages s = true →
    runsOrBubbles (s.memL.map (·.instr)) (fun i => exec i ⟨_, (hostAction s).atStage .writeBack⟩)
      ((hostAction s).setWB none) s₁ →
    runsOrBubbles (s.exL.map (·.instr)) (fun i => exec i ⟨_, s₁.atStage .memoryAccess⟩) (s₁.setMEM none) s₂ →
    runsOrBubbles (s.idL.map (·.instr)) (fun i => exec i ⟨_, s₂.atStage .execute⟩) (s₂.setEX none) s₃ →
    runsOrBubbles (s.ifL.map (·.instr)) (fun i => exec i ⟨_, (s₃.setFetchEn true).atStage .decode⟩)
      ((s₃.setFetchEn true).setID none) s₄ →
    fetchStage s₄ = .next ⟨_, s₅⟩ →
    step ⟨_, s⟩ = .next ⟨_, { s₅ with
      metrics := { s₅.metrics with cycles := s₅.metrics.cycles + 1 }, signals := Signals.rest }⟩

/-- R301, R134: with the pipeline drained, the record at PC decoding to a well-formed `i` and no interrupt, a step is
`exec` of `i`, with the cycle counted. -/
def Obligations.StepExecutesDecodedInstruction : Prop :=
  ∀ (xlen : Nat) (s : CoreState xlen) (item : ProgItem xlen) (i : Instr), isDrained s = true → runsStages s = true →
    0 ≤ sx s.pc → sx s.pc < s.prog.length → s.prog[(sx s.pc).toNat]? = some item →
    decodeItem s.params.numRegs (sx s.pc).toNat item = .ok i → i.wf xlen s.params.numRegs = true →
    ∃ t : CoreState xlen, exec i ⟨_, (hostAction s).atStage .fetch⟩ = .next ⟨_, t⟩ ∧
      step ⟨_, s⟩ = .next ⟨_, { t with
        metrics := { t.metrics with cycles := t.metrics.cycles + 1 }, signals := Signals.rest }⟩

/-- 60_exceptions.md R274, R275: an interrupt cycle writes the sentinel register, clears the device, counts itself and the
interrupt, and changes nothing else: PC, Z, the latches, the cache and Main keep their values. -/
def Obligations.InterruptCycleNetEffect : Prop :=
  ∀ (xlen : Nat) (s : CoreState xlen), s.status = .running → isDone (hostAction s) = false →
    isCapped (hostAction s) = false →
    (hostAction s).dev.ready = true → s.istate = { mode := .normal, savedPC := none } →
    s.params.sentinelReg < s.regs.length →
    step ⟨_, s⟩ = .next ⟨_, { s with
      regs := s.regs.set s.params.sentinelReg s.params.sentinelValue,
      dev := { ready := false, value := (hostAction s).dev.value },
      metrics := { s.metrics with interrupts := s.metrics.interrupts + 1, cycles := s.metrics.cycles + 1 } }⟩

/-- R265 at `NegativeShift`: Write-back and Memory-access have run, nothing later has, `cycles` is not counted, and the run
has ended with the record of R264. -/
def Obligations.NegativeShiftEndsRun : Prop :=
  ∀ (xlen : Nat) (s s₁ s₂ : CoreState xlen) (d : IdEntry xlen) (rd : Nat) (a b : Operand) (va vb : Word xlen), runsStages s = true →
    writeBackStage (hostAction s) = .next ⟨_, s₁⟩ → memoryStage s₁ = .next ⟨_, s₂⟩ →
    s.idL = some d → d.instr = .shl rd a b → d.vals = [va, vb] → sx vb < 0 →
    step ⟨_, s⟩ = .next ⟨_, { s₂ with
      status := .faulted { kind := .negativeShift, idx := d.idx, info := .amount (sx vb), cycle := some s.metrics.cycles },
      signals := Signals.rest }⟩ ∧
    s₂.idL = s.idL ∧ s₂.exL = s.exL ∧ s₂.ifL = s.ifL ∧ s₂.pc = s.pc ∧ s₂.z = s.z ∧
    s₂.metrics.cycles = s.metrics.cycles

/-- R265 at `AddressOutOfRange`: Write-back alone has run, `cycles` is not counted, and the run has ended with the record
of R264. -/
def Obligations.AddressOutOfRangeEndsRun : Prop :=
  ∀ (xlen : Nat) (s s₁ : CoreState xlen) (e : ExEntry xlen) (w : Word xlen), runsStages s = true →
    writeBackStage (hostAction s) = .next ⟨_, s₁⟩ →
    s.exL = some e → (e.instr.opcode = .load ∨ (e.instr.opcode = .store ∧ e.sval.isSome = true)) →
    e.result = some w → (sx w < 0 ∨ s.params.memSize ≤ sx w) →
    step ⟨_, s⟩ = .next ⟨_, { s₁ with
      status := .faulted { kind := .addressOutOfRange, idx := e.idx, info := .address (sx w), cycle := some s.metrics.cycles },
      signals := Signals.rest }⟩ ∧
    s₁.memL = s.memL ∧ s₁.exL = s.exL ∧ s₁.idL = s.idL ∧ s₁.ifL = s.ifL ∧ s₁.pc = s.pc ∧ s₁.z = s.z ∧
    s₁.main = s.main ∧ s₁.cache = s.cache ∧ s₁.metrics = s.metrics

/-- 70_reset_and_hazards.md R304 to R306: after the host's action the natural end is tested first, then the cap; neither
runs a cycle. -/
def Obligations.RunEndsDoneBeforeCapped : Prop :=
  ∀ (xlen : Nat) (s u : CoreState xlen), s.status = .running → u = hostAction s →
    ((u.ifL = none ∧ u.idL = none ∧ u.exL = none ∧ u.memL = none ∧ u.wbL = none ∧ u.dev.ready = false ∧
        ¬ (0 ≤ sx u.pc ∧ sx u.pc < u.prog.length)) →
      step ⟨_, s⟩ = .next ⟨_, u.setStatus .done⟩) ∧
    (¬ (u.ifL = none ∧ u.idL = none ∧ u.exL = none ∧ u.memL = none ∧ u.wbL = none ∧ u.dev.ready = false ∧
        ¬ (0 ≤ sx u.pc ∧ sx u.pc < u.prog.length)) →
      u.maxCycles ≤ u.metrics.cycles → step ⟨_, s⟩ = .next ⟨_, u.setStatus .capped⟩)

/-- R309: once a run has ended, further ticks change nothing. -/
def Obligations.TicksAfterTheEndChangeNothing : Prop :=
  ∀ (xlen : Nat) (s : CoreState xlen), s.status ≠ .running → step ⟨_, s⟩ = .next ⟨_, s⟩

/-- 60_exceptions.md R261: a program that fails validation is refused at reset with a record whose `cycle` is none; no
cycle runs and every metric is 0. -/
def Obligations.RefusedProgramRunsNoCycle : Prop :=
  ∀ (inp : RunInputs) (dev : Device inp.xlen) (r : FaultRecord), firstStaticFault inp.params.numRegs 0 inp.prog = some r →
    (assertReset inp dev).status = .refused r ∧ r.cycle = none ∧ 
    step (resetMachine inp dev) = .next (resetMachine inp dev) ∧
    faultOut (assertReset inp dev) = some r ∧
    (assertReset inp dev).metrics = { cycles := 0, stalls := 0, cacheHits := 0, cacheMisses := 0, interrupts := 0 }

/-! ### Rules of the whole machine -/

/-- 10_state.md R52, R54: no step changes the width XLEN, the program store, the parameters or the run's inputs. -/
def Obligations.ProgramAndParametersAreFixed : Prop :=
  ∀ (xlen : Nat) (s : CoreState xlen) (u : State), step ⟨_, s⟩ = .next u →
    ∃ t : CoreState xlen, u = ⟨_, t⟩ ∧
      t.prog = s.prog ∧ t.params = s.params ∧ t.triggers = s.triggers ∧ t.maxCycles = s.maxCycles

/-- R37, R38: Z changes only in a step whose ID latch held ADD, SUB, MUL, AND, SHL or CMP. -/
def Obligations.ZeroFlagHasOneWriter : Prop :=
  ∀ (xlen : Nat) (s t : CoreState xlen), step ⟨_, s⟩ = .next ⟨_, t⟩ → t.z ≠ s.z →
    ∃ d, s.idL = some d ∧ writesZ d.instr = true

/-- R32: a general register changes only by the Write-back of its writer in MEM, or by the interrupt routine. -/
def Obligations.RegistersHaveTwoWriters : Prop :=
  ∀ (xlen : Nat) (s t : CoreState xlen) (k : Nat), step ⟨_, s⟩ = .next ⟨_, t⟩ → t.regs[k]? ≠ s.regs[k]? →
    (∃ m, s.memL = some m ∧ m.dest = some k ∧ destOf m.instr ≠ none ∧ t.regs[k]? = m.result) ∨
    (interruptPending (hostAction s) = true ∧ k = s.params.sentinelReg ∧ t.regs[k]? = some s.params.sentinelValue)

/-- R35, 40_pipeline.md R153: a step leaves PC, advances it by one, or sets it to the target of the branch in IF, and
Main changes only under a STORE in EX. -/
def Obligations.PcAndMainHaveFewWriters : Prop :=
  ∀ (xlen : Nat) (s t : CoreState xlen), step ⟨_, s⟩ = .next ⟨_, t⟩ →
    (t.pc = s.pc ∨ t.pc = s.pc + 1 ∨ ∃ f w, s.ifL = some f ∧ targetOf f.instr = some w ∧ t.pc = word xlen w) ∧
    (t.main ≠ s.main → ∃ e, s.exL = some e ∧ isStore e.instr = true)

/-- R131, R41: in a cycle that runs the stages and raises nothing, every instruction in flight advances exactly one stage,
but for the one in IF when it stalls, which stays (R139), or is a taken branch, which leaves the pipe (R141). -/
def Obligations.LatchesAdvanceOneStage : Prop :=
  ∀ (xlen : Nat) (s t : CoreState xlen), runsStages s = true → step ⟨_, s⟩ = .next ⟨_, t⟩ → t.status = .running →
    t.wbL = s.memL ∧
    t.memL.map (fun e => (e.idx, e.instr)) = s.exL.map (fun e => (e.idx, e.instr)) ∧
    t.exL.map (fun e => (e.idx, e.instr)) = s.idL.map (fun d => (d.idx, d.instr)) ∧
    (t.idL.map (fun d => (d.idx, d.instr)) = s.ifL.map (fun f => (f.idx, f.instr)) ∨
     (t.idL = none ∧ t.ifL = s.ifL ∧ t.pc = s.pc ∧ t.metrics.stalls = s.metrics.stalls + 1) ∨
     (∃ f w, s.ifL = some f ∧ targetOf f.instr = some w ∧ t.idL = none ∧ t.ifL = none ∧ t.pc = word xlen w))

/-- R140: a load-use hazard costs one stall. However many interrupt cycles follow the stall cycle, the cycle after them
counts no stall. -/
def Obligations.OneStallPerLoadUse : Prop :=
  ∀ (xlen n : Nat) (s t u v : CoreState xlen), step ⟨_, s⟩ = .next ⟨_, t⟩ →
    t.metrics.stalls = s.metrics.stalls + 1 →
    runSteps n ⟨_, t⟩ = .next ⟨_, u⟩ → u.metrics.interrupts = t.metrics.interrupts + n →
    step ⟨_, u⟩ = .next ⟨_, v⟩ → v.metrics.stalls = t.metrics.stalls

/-- R150, 70_reset_and_hazards.md R311: with an older and a younger writer of Rk in flight, a reader is given the older
one's value. -/
def Obligations.OldestWriterWins : Prop :=
  ∀ (xlen : Nat) (s t : CoreState xlen) (f : IfEntry) (e : ExEntry xlen) (d : IdEntry xlen) (rd k : Nat) (w : Word xlen),
    runsStages s = true → step ⟨_, s⟩ = .next ⟨_, t⟩ → t.status = .running →
    noWriter k s.memL → s.exL = some e → e.dest = some k → e.result = some w → e.instr.opcode ≠ .load →
    s.idL = some d → d.dest = some k → s.ifL = some f → f.instr = .mov rd (.reg k) →
    ∃ x, t.idL = some x ∧ x.vals = [w]

/-- R132, R154: a conditional branch decoded in the cycle in which a CMP executes reads that CMP's Z; taken, it leaves IF
and ID empty and PC at its target. -/
def Obligations.BranchReadsFlagOfSameCycle : Prop :=
  ∀ (xlen : Nat) (s t : CoreState xlen) (f : IfEntry) (d : IdEntry xlen) (a b : Operand) (va vb : Word xlen) (w : Int),
    runsStages s = true → step ⟨_, s⟩ = .next ⟨_, t⟩ → t.status = .running →
    s.idL = some d → d.instr = .cmp a b → d.vals = [va, vb] → s.ifL = some f →
    ((f.instr = .jz w ∨ f.instr = .je w) ∧ va = vb ∨ f.instr = .jnz w ∧ va ≠ vb →
      t.pc = word xlen w ∧ t.ifL = none ∧ t.idL = none) ∧
    ((f.instr = .jz w ∨ f.instr = .je w) ∧ va ≠ vb ∨ f.instr = .jnz w ∧ va = vb →
      ∃ x, t.idL = some x ∧ x.instr = f.instr ∧ x.dest = none)

/-- 44_control.md R236: the cycle after a taken branch fetches the instruction at its target, or nothing when the target
is out of bounds. JMP is taken, JZ and JE when the flag Execute left in that cycle is 1, JNZ when it is 0. -/
def Obligations.TargetIsFetchedNextCycle : Prop :=
  ∀ (xlen : Nat) (s t u : CoreState xlen) (f : IfEntry) (w : Int), runsStages s = true →
    step ⟨_, s⟩ = .next ⟨_, t⟩ → t.status = .running → s.ifL = some f →
    (f.instr = .jmp w ∨ (t.z = true ∧ (f.instr = .jz w ∨ f.instr = .je w)) ∨ (t.z = false ∧ f.instr = .jnz w)) →
    runsStages t = true → step ⟨_, t⟩ = .next ⟨_, u⟩ → u.status = .running →
    (∀ item i, 0 ≤ sx (word xlen w) → s.prog[(sx (word xlen w)).toNat]? = some item →
      decodeItem s.params.numRegs (sx (word xlen w)).toNat item = .ok i →
      u.ifL = some { idx := (sx (word xlen w)).toNat, instr := i }) ∧
    (¬ (0 ≤ sx (word xlen w) ∧ sx (word xlen w) < s.prog.length) → u.ifL = none)

/-! ### Memory and the cache -/

/-- 20_memory.md R78, R79: line index, tag and offset of an address give the address back. -/
def Obligations.CacheAddressRoundTrips : Prop :=
  ∀ (xlen : Nat) (p : Params xlen) (a : Nat), 0 < p.blockSize → 0 < p.numLines →
    lineAddress p (lineIndex p a) (tagOf p a) (offsetOf p a) = a ∧
    lineIndex p a < p.numLines ∧ offsetOf p a < p.blockSize

/-- R86: under the transparency invariant a read returns the word of Main, hit or miss. -/
def Obligations.ReadsReturnMain : Prop :=
  ∀ (xlen : Nat) (s : CoreState xlen) (a : Nat), s.params.wf = true → s.cache.length = s.params.numLines →
    Transparent s →
    memReadWord s a = readMain s.main a

/-- R87 (a) and (b), R89: what is written at an address is what the next read of it returns; after a read of an address
the next read of the same address is a hit. -/
def Obligations.CacheKeepsWhatWasAccessed : Prop :=
  ∀ (xlen : Nat) (s : CoreState xlen) (a : Nat), s.params.wf = true → storageFits s = true → Transparent s →
    (∀ v : Word xlen, memReadWord (memWrite s a v) a = v) ∧ isHit (memReadState s a) a = true

/-! ### Invariants -/

/-- The memory keeps its canonical form (log 3). -/
def Obligations.MainStaysCanonical : Prop :=
  ∀ (xlen : Nat) (s t : CoreState xlen), s.main.wf = true → step ⟨_, s⟩ = .next ⟨_, t⟩ → t.main.wf = true

/-- R272: at every cycle boundary the interrupt controller is in Normal with no saved PC. -/
def Obligations.ControllerRestsBetweenCycles : Prop :=
  ∀ (xlen : Nat) (s t : CoreState xlen), s.istate = { mode := .normal, savedPC := none } → step ⟨_, s⟩ = .next ⟨_, t⟩ →
    t.istate = { mode := .normal, savedPC := none }

/-- R40: the counters keep their bounds. R40 has no exception; that the bound on counted reads is one weaker after a
dynamic fault, whose cycle may have counted its read and is itself not counted, is the model's choice (log 17). -/
def Obligations.CountersStayBounded : Prop :=
  ∀ (xlen : Nat) (s t : CoreState xlen), countersBounded s = true → step ⟨_, s⟩ = .next ⟨_, t⟩ →
    countersBounded t = true

/-- Every step keeps a state well formed: sizes, canonical memory, existing addresses, latches that hold what their stages
write (R42, R43), the controller at rest. -/
def Obligations.WellFormedStateStaysWellFormed : Prop :=
  ∀ (xlen : Nat) (s t : CoreState xlen), s.wf = true → step ⟨_, s⟩ = .next ⟨_, t⟩ → t.wf = true

/-- 60_exceptions.md R260, "nothing else raises": a well-formed state always has a next state; the model's own faults and
refusals are unreachable. -/
def Obligations.WellFormedStateAlwaysSteps : Prop :=
  ∀ (xlen : Nat) (s : CoreState xlen), s.wf = true → ∃ t : CoreState xlen, step ⟨_, s⟩ = .next ⟨_, t⟩

/-- 20_memory.md R86: every valid line equals main memory at every cycle boundary. -/
def Obligations.CacheStaysTransparent : Prop :=
  ∀ (xlen : Nat) (s t : CoreState xlen), s.wf = true → Transparent s → step ⟨_, s⟩ = .next ⟨_, t⟩ → Transparent t

/-! ### One instruction through the whole pipeline -/

/-- 41_arithmetic.md R182 to R186 over the machine's own steps; SHL for a nonnegative amount. -/
def Obligations.ArithmeticPassesThePipeline : Prop :=
  ∀ xlen : Nat, 2 ≤ xlen →
  arithmeticPasses (xlen := xlen) .add (fun _ => True) (fun va vb => va + vb) ∧
  arithmeticPasses (xlen := xlen) .sub (fun _ => True) (fun va vb => va - vb) ∧
  arithmeticPasses (xlen := xlen) .mul (fun _ => True) (fun va vb => va * vb) ∧
  arithmeticPasses (xlen := xlen) .and (fun _ => True) (fun va vb => va &&& vb) ∧
  arithmeticPasses (xlen := xlen) .shl (fun vb => 0 ≤ sx vb) (fun va vb => va <<< (sx vb).toNat)

/-- 42_data_movement.md R202, R203 over the machine's own steps: MOV copies its operand, LOAD the word of Main, each into
one register; Z and Main keep their values. -/
def Obligations.MovAndLoadPassThePipeline : Prop :=
  ∀ (xlen : Nat) (s : CoreState xlen) (rd : Nat) (a : Operand) (va : Word xlen), 2 ≤ xlen →
    rd < s.regs.length → archValue s a = some va →
    (startsAlone s (.mov rd a) = true → ∃ t : CoreState xlen, runSteps 5 ⟨_, s⟩ = .next ⟨_, t⟩ ∧
      passedAlone s t (s.regs.set rd va) s.z s.main s.cache s.metrics.cacheHits s.metrics.cacheMisses) ∧
    (startsAlone s (.load rd a) = true → s.params.wf = true → s.cache.length = s.params.numLines → Transparent s →
      0 ≤ sx va → sx va < s.params.memSize →
      ∃ t : CoreState xlen, runSteps 5 ⟨_, s⟩ = .next ⟨_, t⟩ ∧
        passedAlone s t (s.regs.set rd (readMain s.main (sx va).toNat)) s.z s.main
          (memReadState s (sx va).toNat).cache (memReadState s (sx va).toNat).metrics.cacheHits
          (memReadState s (sx va).toNat).metrics.cacheMisses)

/-- R204 over the machine's own steps: STORE writes its register's word to the address and changes no register, no flag,
no counter but `cycles`, and no other word of Main. -/
def Obligations.StorePassesThePipeline : Prop :=
  ∀ (xlen : Nat) (s : CoreState xlen) (rs : Nat) (a : Operand) (vs va : Word xlen), 2 ≤ xlen →
    startsAlone s (.store rs a) = true → s.regs[rs]? = some vs → archValue s a = some va →
    0 ≤ sx va → sx va < s.params.memSize → s.main.wf = true →
    ∃ t : CoreState xlen, runSteps 5 ⟨_, s⟩ = .next ⟨_, t⟩ ∧
      passedAlone s t s.regs s.z (writeMain s.main (sx va).toNat vs) (memWrite s (sx va).toNat vs).cache
        s.metrics.cacheHits s.metrics.cacheMisses ∧
      ∀ b, readMain t.main b = if b = (sx va).toNat then vs else readMain s.main b

/-- 43_compare.md R220, 45_nop.md R250, 44_control.md R233 to R235 over the machine's own steps: CMP writes Z alone; NOP
and a branch not taken change nothing. -/
def Obligations.CompareNopAndPassedBranchPassThePipeline : Prop :=
  ∀ xlen : Nat, 2 ≤ xlen →
  (∀ (s : CoreState xlen) (a b : Operand) (va vb : Word xlen), startsAlone s (.cmp a b) = true →
    archValue s a = some va → archValue s b = some vb →
    ∃ t : CoreState xlen, runSteps 5 ⟨_, s⟩ = .next ⟨_, t⟩ ∧
      passedAlone s t s.regs (decide (va = vb)) s.main s.cache s.metrics.cacheHits s.metrics.cacheMisses) ∧
  (∀ (s : CoreState xlen) (i : Instr) (w : Int),
    (i = .nop ∨ (s.z = false ∧ (i = .jz w ∨ i = .je w)) ∨ (s.z = true ∧ i = .jnz w)) → startsAlone s i = true →
    ∃ t : CoreState xlen, runSteps 5 ⟨_, s⟩ = .next ⟨_, t⟩ ∧
      passedAlone s t s.regs s.z s.main s.cache s.metrics.cacheHits s.metrics.cacheMisses)

/-- 44_control.md R232 to R235 over the machine's own steps: two cycles take a branch, which leaves the pipeline empty, PC
at the target and all else as it was. -/
def Obligations.TakenBranchPassesThePipeline : Prop :=
  ∀ (xlen : Nat) (s : CoreState xlen) (i : Instr) (w : Int),
    (i = .jmp w ∨ (s.z = true ∧ (i = .jz w ∨ i = .je w)) ∨ (s.z = false ∧ i = .jnz w)) → startsAlone s i = true →
    runSteps 2 ⟨_, s⟩ = .next ⟨_, { s with
      pc := word xlen w, metrics := { s.metrics with cycles := s.metrics.cycles + 2 }, signals := Signals.rest }⟩
end

