-- ==== Sys2Proof/Laws/Arithmetic.lean ====
section
/-! SUPPORT. The results of the arithmetic family (41_arithmetic.md R182 to R186), computed on integers and narrowed, are
the bit-vector operations on words. -/

namespace Sys2Proof.Machine

variable {xlen : Nat}

theorem addResult_eq (va vb : Word xlen) : addResult va vb = va + vb := by
  simp [addResult, word, ux, BitVec.ofInt_add]

theorem subResult_eq (va vb : Word xlen) : subResult va vb = va - vb := by
  apply BitVec.eq_of_toInt_eq
  rw [subResult, word, BitVec.toInt_ofInt, BitVec.toInt_sub, BitVec.toInt_eq_toNat_bmod, BitVec.toInt_eq_toNat_bmod,
    Int.bmod_sub_bmod, Int.sub_bmod_bmod]

theorem mulResult_eq (va vb : Word xlen) : mulResult va vb = va * vb := by
  simp [mulResult, word, ux, BitVec.ofInt_mul]

theorem andResult_eq (va vb : Word xlen) : andResult va vb = va &&& vb := rfl

/-- A shift by XLEN or more leaves nothing. -/
theorem shiftLeft_eq_zero {va : Word xlen} {n : Nat} (h : xlen ≤ n) : va <<< n = 0 :=
  BitVec.shiftLeft_eq_zero h

theorem shlResult_eq {va vb : Word xlen} (h : 0 ≤ sx vb) : shlResult va vb = va <<< (sx vb).toNat := by
  unfold shlResult
  split
  · rw [shiftLeft_eq_zero (by omega)]
  · apply BitVec.eq_of_toNat_eq
    have e : ((ux va : Int) * 2 ^ (sx vb).toNat) = ((ux va * 2 ^ (sx vb).toNat : Nat) : Int) := by push_cast; rfl
    rw [e, word, BitVec.ofInt_natCast, BitVec.toNat_ofNat, BitVec.toNat_shiftLeft, Nat.shiftLeft_eq]

end Sys2Proof.Machine
end

