-- ==== Sys2Proof/Laws/State.lean ====
section
/-! SUPPORT. One lemma per field per update of the state, so that no later proof unfolds a record update. -/

namespace Sys2Proof.Machine

variable {xlen : Nat}

@[simp] theorem CoreState.setRegs_params (s : CoreState xlen) (v : List (Word xlen)) : (s.setRegs v).params = s.params := rfl
@[simp] theorem CoreState.setRegs_prog (s : CoreState xlen) (v : List (Word xlen)) : (s.setRegs v).prog = s.prog := rfl
@[simp] theorem CoreState.setRegs_regs (s : CoreState xlen) (v : List (Word xlen)) : (s.setRegs v).regs = v := rfl
@[simp] theorem CoreState.setRegs_z (s : CoreState xlen) (v : List (Word xlen)) : (s.setRegs v).z = s.z := rfl
@[simp] theorem CoreState.setRegs_pc (s : CoreState xlen) (v : List (Word xlen)) : (s.setRegs v).pc = s.pc := rfl
@[simp] theorem CoreState.setRegs_ifL (s : CoreState xlen) (v : List (Word xlen)) : (s.setRegs v).ifL = s.ifL := rfl
@[simp] theorem CoreState.setRegs_idL (s : CoreState xlen) (v : List (Word xlen)) : (s.setRegs v).idL = s.idL := rfl
@[simp] theorem CoreState.setRegs_exL (s : CoreState xlen) (v : List (Word xlen)) : (s.setRegs v).exL = s.exL := rfl
@[simp] theorem CoreState.setRegs_memL (s : CoreState xlen) (v : List (Word xlen)) : (s.setRegs v).memL = s.memL := rfl
@[simp] theorem CoreState.setRegs_wbL (s : CoreState xlen) (v : List (Word xlen)) : (s.setRegs v).wbL = s.wbL := rfl
@[simp] theorem CoreState.setRegs_cache (s : CoreState xlen) (v : List (Word xlen)) : (s.setRegs v).cache = s.cache := rfl
@[simp] theorem CoreState.setRegs_main (s : CoreState xlen) (v : List (Word xlen)) : (s.setRegs v).main = s.main := rfl
@[simp] theorem CoreState.setRegs_istate (s : CoreState xlen) (v : List (Word xlen)) : (s.setRegs v).istate = s.istate := rfl
@[simp] theorem CoreState.setRegs_metrics (s : CoreState xlen) (v : List (Word xlen)) : (s.setRegs v).metrics = s.metrics := rfl
@[simp] theorem CoreState.setRegs_dev (s : CoreState xlen) (v : List (Word xlen)) : (s.setRegs v).dev = s.dev := rfl
@[simp] theorem CoreState.setRegs_triggers (s : CoreState xlen) (v : List (Word xlen)) : (s.setRegs v).triggers = s.triggers := rfl
@[simp] theorem CoreState.setRegs_maxCycles (s : CoreState xlen) (v : List (Word xlen)) : (s.setRegs v).maxCycles = s.maxCycles := rfl
@[simp] theorem CoreState.setRegs_status (s : CoreState xlen) (v : List (Word xlen)) : (s.setRegs v).status = s.status := rfl
@[simp] theorem CoreState.setRegs_signals (s : CoreState xlen) (v : List (Word xlen)) : (s.setRegs v).signals = s.signals := rfl

@[simp] theorem CoreState.setZ_params (s : CoreState xlen) (v : Bool) : (s.setZ v).params = s.params := rfl
@[simp] theorem CoreState.setZ_prog (s : CoreState xlen) (v : Bool) : (s.setZ v).prog = s.prog := rfl
@[simp] theorem CoreState.setZ_regs (s : CoreState xlen) (v : Bool) : (s.setZ v).regs = s.regs := rfl
@[simp] theorem CoreState.setZ_z (s : CoreState xlen) (v : Bool) : (s.setZ v).z = v := rfl
@[simp] theorem CoreState.setZ_pc (s : CoreState xlen) (v : Bool) : (s.setZ v).pc = s.pc := rfl
@[simp] theorem CoreState.setZ_ifL (s : CoreState xlen) (v : Bool) : (s.setZ v).ifL = s.ifL := rfl
@[simp] theorem CoreState.setZ_idL (s : CoreState xlen) (v : Bool) : (s.setZ v).idL = s.idL := rfl
@[simp] theorem CoreState.setZ_exL (s : CoreState xlen) (v : Bool) : (s.setZ v).exL = s.exL := rfl
@[simp] theorem CoreState.setZ_memL (s : CoreState xlen) (v : Bool) : (s.setZ v).memL = s.memL := rfl
@[simp] theorem CoreState.setZ_wbL (s : CoreState xlen) (v : Bool) : (s.setZ v).wbL = s.wbL := rfl
@[simp] theorem CoreState.setZ_cache (s : CoreState xlen) (v : Bool) : (s.setZ v).cache = s.cache := rfl
@[simp] theorem CoreState.setZ_main (s : CoreState xlen) (v : Bool) : (s.setZ v).main = s.main := rfl
@[simp] theorem CoreState.setZ_istate (s : CoreState xlen) (v : Bool) : (s.setZ v).istate = s.istate := rfl
@[simp] theorem CoreState.setZ_metrics (s : CoreState xlen) (v : Bool) : (s.setZ v).metrics = s.metrics := rfl
@[simp] theorem CoreState.setZ_dev (s : CoreState xlen) (v : Bool) : (s.setZ v).dev = s.dev := rfl
@[simp] theorem CoreState.setZ_triggers (s : CoreState xlen) (v : Bool) : (s.setZ v).triggers = s.triggers := rfl
@[simp] theorem CoreState.setZ_maxCycles (s : CoreState xlen) (v : Bool) : (s.setZ v).maxCycles = s.maxCycles := rfl
@[simp] theorem CoreState.setZ_status (s : CoreState xlen) (v : Bool) : (s.setZ v).status = s.status := rfl
@[simp] theorem CoreState.setZ_signals (s : CoreState xlen) (v : Bool) : (s.setZ v).signals = s.signals := rfl

@[simp] theorem CoreState.setPc_params (s : CoreState xlen) (v : Word xlen) : (s.setPc v).params = s.params := rfl
@[simp] theorem CoreState.setPc_prog (s : CoreState xlen) (v : Word xlen) : (s.setPc v).prog = s.prog := rfl
@[simp] theorem CoreState.setPc_regs (s : CoreState xlen) (v : Word xlen) : (s.setPc v).regs = s.regs := rfl
@[simp] theorem CoreState.setPc_z (s : CoreState xlen) (v : Word xlen) : (s.setPc v).z = s.z := rfl
@[simp] theorem CoreState.setPc_pc (s : CoreState xlen) (v : Word xlen) : (s.setPc v).pc = v := rfl
@[simp] theorem CoreState.setPc_ifL (s : CoreState xlen) (v : Word xlen) : (s.setPc v).ifL = s.ifL := rfl
@[simp] theorem CoreState.setPc_idL (s : CoreState xlen) (v : Word xlen) : (s.setPc v).idL = s.idL := rfl
@[simp] theorem CoreState.setPc_exL (s : CoreState xlen) (v : Word xlen) : (s.setPc v).exL = s.exL := rfl
@[simp] theorem CoreState.setPc_memL (s : CoreState xlen) (v : Word xlen) : (s.setPc v).memL = s.memL := rfl
@[simp] theorem CoreState.setPc_wbL (s : CoreState xlen) (v : Word xlen) : (s.setPc v).wbL = s.wbL := rfl
@[simp] theorem CoreState.setPc_cache (s : CoreState xlen) (v : Word xlen) : (s.setPc v).cache = s.cache := rfl
@[simp] theorem CoreState.setPc_main (s : CoreState xlen) (v : Word xlen) : (s.setPc v).main = s.main := rfl
@[simp] theorem CoreState.setPc_istate (s : CoreState xlen) (v : Word xlen) : (s.setPc v).istate = s.istate := rfl
@[simp] theorem CoreState.setPc_metrics (s : CoreState xlen) (v : Word xlen) : (s.setPc v).metrics = s.metrics := rfl
@[simp] theorem CoreState.setPc_dev (s : CoreState xlen) (v : Word xlen) : (s.setPc v).dev = s.dev := rfl
@[simp] theorem CoreState.setPc_triggers (s : CoreState xlen) (v : Word xlen) : (s.setPc v).triggers = s.triggers := rfl
@[simp] theorem CoreState.setPc_maxCycles (s : CoreState xlen) (v : Word xlen) : (s.setPc v).maxCycles = s.maxCycles := rfl
@[simp] theorem CoreState.setPc_status (s : CoreState xlen) (v : Word xlen) : (s.setPc v).status = s.status := rfl
@[simp] theorem CoreState.setPc_signals (s : CoreState xlen) (v : Word xlen) : (s.setPc v).signals = s.signals := rfl

@[simp] theorem CoreState.setIF_params (s : CoreState xlen) (v : Option IfEntry) : (s.setIF v).params = s.params := rfl
@[simp] theorem CoreState.setIF_prog (s : CoreState xlen) (v : Option IfEntry) : (s.setIF v).prog = s.prog := rfl
@[simp] theorem CoreState.setIF_regs (s : CoreState xlen) (v : Option IfEntry) : (s.setIF v).regs = s.regs := rfl
@[simp] theorem CoreState.setIF_z (s : CoreState xlen) (v : Option IfEntry) : (s.setIF v).z = s.z := rfl
@[simp] theorem CoreState.setIF_pc (s : CoreState xlen) (v : Option IfEntry) : (s.setIF v).pc = s.pc := rfl
@[simp] theorem CoreState.setIF_ifL (s : CoreState xlen) (v : Option IfEntry) : (s.setIF v).ifL = v := rfl
@[simp] theorem CoreState.setIF_idL (s : CoreState xlen) (v : Option IfEntry) : (s.setIF v).idL = s.idL := rfl
@[simp] theorem CoreState.setIF_exL (s : CoreState xlen) (v : Option IfEntry) : (s.setIF v).exL = s.exL := rfl
@[simp] theorem CoreState.setIF_memL (s : CoreState xlen) (v : Option IfEntry) : (s.setIF v).memL = s.memL := rfl
@[simp] theorem CoreState.setIF_wbL (s : CoreState xlen) (v : Option IfEntry) : (s.setIF v).wbL = s.wbL := rfl
@[simp] theorem CoreState.setIF_cache (s : CoreState xlen) (v : Option IfEntry) : (s.setIF v).cache = s.cache := rfl
@[simp] theorem CoreState.setIF_main (s : CoreState xlen) (v : Option IfEntry) : (s.setIF v).main = s.main := rfl
@[simp] theorem CoreState.setIF_istate (s : CoreState xlen) (v : Option IfEntry) : (s.setIF v).istate = s.istate := rfl
@[simp] theorem CoreState.setIF_metrics (s : CoreState xlen) (v : Option IfEntry) : (s.setIF v).metrics = s.metrics := rfl
@[simp] theorem CoreState.setIF_dev (s : CoreState xlen) (v : Option IfEntry) : (s.setIF v).dev = s.dev := rfl
@[simp] theorem CoreState.setIF_triggers (s : CoreState xlen) (v : Option IfEntry) : (s.setIF v).triggers = s.triggers := rfl
@[simp] theorem CoreState.setIF_maxCycles (s : CoreState xlen) (v : Option IfEntry) : (s.setIF v).maxCycles = s.maxCycles := rfl
@[simp] theorem CoreState.setIF_status (s : CoreState xlen) (v : Option IfEntry) : (s.setIF v).status = s.status := rfl
@[simp] theorem CoreState.setIF_signals (s : CoreState xlen) (v : Option IfEntry) : (s.setIF v).signals = s.signals := rfl

@[simp] theorem CoreState.setID_params (s : CoreState xlen) (v : Option (IdEntry xlen)) : (s.setID v).params = s.params := rfl
@[simp] theorem CoreState.setID_prog (s : CoreState xlen) (v : Option (IdEntry xlen)) : (s.setID v).prog = s.prog := rfl
@[simp] theorem CoreState.setID_regs (s : CoreState xlen) (v : Option (IdEntry xlen)) : (s.setID v).regs = s.regs := rfl
@[simp] theorem CoreState.setID_z (s : CoreState xlen) (v : Option (IdEntry xlen)) : (s.setID v).z = s.z := rfl
@[simp] theorem CoreState.setID_pc (s : CoreState xlen) (v : Option (IdEntry xlen)) : (s.setID v).pc = s.pc := rfl
@[simp] theorem CoreState.setID_ifL (s : CoreState xlen) (v : Option (IdEntry xlen)) : (s.setID v).ifL = s.ifL := rfl
@[simp] theorem CoreState.setID_idL (s : CoreState xlen) (v : Option (IdEntry xlen)) : (s.setID v).idL = v := rfl
@[simp] theorem CoreState.setID_exL (s : CoreState xlen) (v : Option (IdEntry xlen)) : (s.setID v).exL = s.exL := rfl
@[simp] theorem CoreState.setID_memL (s : CoreState xlen) (v : Option (IdEntry xlen)) : (s.setID v).memL = s.memL := rfl
@[simp] theorem CoreState.setID_wbL (s : CoreState xlen) (v : Option (IdEntry xlen)) : (s.setID v).wbL = s.wbL := rfl
@[simp] theorem CoreState.setID_cache (s : CoreState xlen) (v : Option (IdEntry xlen)) : (s.setID v).cache = s.cache := rfl
@[simp] theorem CoreState.setID_main (s : CoreState xlen) (v : Option (IdEntry xlen)) : (s.setID v).main = s.main := rfl
@[simp] theorem CoreState.setID_istate (s : CoreState xlen) (v : Option (IdEntry xlen)) : (s.setID v).istate = s.istate := rfl
@[simp] theorem CoreState.setID_metrics (s : CoreState xlen) (v : Option (IdEntry xlen)) : (s.setID v).metrics = s.metrics := rfl
@[simp] theorem CoreState.setID_dev (s : CoreState xlen) (v : Option (IdEntry xlen)) : (s.setID v).dev = s.dev := rfl
@[simp] theorem CoreState.setID_triggers (s : CoreState xlen) (v : Option (IdEntry xlen)) : (s.setID v).triggers = s.triggers := rfl
@[simp] theorem CoreState.setID_maxCycles (s : CoreState xlen) (v : Option (IdEntry xlen)) : (s.setID v).maxCycles = s.maxCycles := rfl
@[simp] theorem CoreState.setID_status (s : CoreState xlen) (v : Option (IdEntry xlen)) : (s.setID v).status = s.status := rfl
@[simp] theorem CoreState.setID_signals (s : CoreState xlen) (v : Option (IdEntry xlen)) : (s.setID v).signals = s.signals := rfl

@[simp] theorem CoreState.setEX_params (s : CoreState xlen) (v : Option (ExEntry xlen)) : (s.setEX v).params = s.params := rfl
@[simp] theorem CoreState.setEX_prog (s : CoreState xlen) (v : Option (ExEntry xlen)) : (s.setEX v).prog = s.prog := rfl
@[simp] theorem CoreState.setEX_regs (s : CoreState xlen) (v : Option (ExEntry xlen)) : (s.setEX v).regs = s.regs := rfl
@[simp] theorem CoreState.setEX_z (s : CoreState xlen) (v : Option (ExEntry xlen)) : (s.setEX v).z = s.z := rfl
@[simp] theorem CoreState.setEX_pc (s : CoreState xlen) (v : Option (ExEntry xlen)) : (s.setEX v).pc = s.pc := rfl
@[simp] theorem CoreState.setEX_ifL (s : CoreState xlen) (v : Option (ExEntry xlen)) : (s.setEX v).ifL = s.ifL := rfl
@[simp] theorem CoreState.setEX_idL (s : CoreState xlen) (v : Option (ExEntry xlen)) : (s.setEX v).idL = s.idL := rfl
@[simp] theorem CoreState.setEX_exL (s : CoreState xlen) (v : Option (ExEntry xlen)) : (s.setEX v).exL = v := rfl
@[simp] theorem CoreState.setEX_memL (s : CoreState xlen) (v : Option (ExEntry xlen)) : (s.setEX v).memL = s.memL := rfl
@[simp] theorem CoreState.setEX_wbL (s : CoreState xlen) (v : Option (ExEntry xlen)) : (s.setEX v).wbL = s.wbL := rfl
@[simp] theorem CoreState.setEX_cache (s : CoreState xlen) (v : Option (ExEntry xlen)) : (s.setEX v).cache = s.cache := rfl
@[simp] theorem CoreState.setEX_main (s : CoreState xlen) (v : Option (ExEntry xlen)) : (s.setEX v).main = s.main := rfl
@[simp] theorem CoreState.setEX_istate (s : CoreState xlen) (v : Option (ExEntry xlen)) : (s.setEX v).istate = s.istate := rfl
@[simp] theorem CoreState.setEX_metrics (s : CoreState xlen) (v : Option (ExEntry xlen)) : (s.setEX v).metrics = s.metrics := rfl
@[simp] theorem CoreState.setEX_dev (s : CoreState xlen) (v : Option (ExEntry xlen)) : (s.setEX v).dev = s.dev := rfl
@[simp] theorem CoreState.setEX_triggers (s : CoreState xlen) (v : Option (ExEntry xlen)) : (s.setEX v).triggers = s.triggers := rfl
@[simp] theorem CoreState.setEX_maxCycles (s : CoreState xlen) (v : Option (ExEntry xlen)) : (s.setEX v).maxCycles = s.maxCycles := rfl
@[simp] theorem CoreState.setEX_status (s : CoreState xlen) (v : Option (ExEntry xlen)) : (s.setEX v).status = s.status := rfl
@[simp] theorem CoreState.setEX_signals (s : CoreState xlen) (v : Option (ExEntry xlen)) : (s.setEX v).signals = s.signals := rfl

@[simp] theorem CoreState.setMEM_params (s : CoreState xlen) (v : Option (ExEntry xlen)) : (s.setMEM v).params = s.params := rfl
@[simp] theorem CoreState.setMEM_prog (s : CoreState xlen) (v : Option (ExEntry xlen)) : (s.setMEM v).prog = s.prog := rfl
@[simp] theorem CoreState.setMEM_regs (s : CoreState xlen) (v : Option (ExEntry xlen)) : (s.setMEM v).regs = s.regs := rfl
@[simp] theorem CoreState.setMEM_z (s : CoreState xlen) (v : Option (ExEntry xlen)) : (s.setMEM v).z = s.z := rfl
@[simp] theorem CoreState.setMEM_pc (s : CoreState xlen) (v : Option (ExEntry xlen)) : (s.setMEM v).pc = s.pc := rfl
@[simp] theorem CoreState.setMEM_ifL (s : CoreState xlen) (v : Option (ExEntry xlen)) : (s.setMEM v).ifL = s.ifL := rfl
@[simp] theorem CoreState.setMEM_idL (s : CoreState xlen) (v : Option (ExEntry xlen)) : (s.setMEM v).idL = s.idL := rfl
@[simp] theorem CoreState.setMEM_exL (s : CoreState xlen) (v : Option (ExEntry xlen)) : (s.setMEM v).exL = s.exL := rfl
@[simp] theorem CoreState.setMEM_memL (s : CoreState xlen) (v : Option (ExEntry xlen)) : (s.setMEM v).memL = v := rfl
@[simp] theorem CoreState.setMEM_wbL (s : CoreState xlen) (v : Option (ExEntry xlen)) : (s.setMEM v).wbL = s.wbL := rfl
@[simp] theorem CoreState.setMEM_cache (s : CoreState xlen) (v : Option (ExEntry xlen)) : (s.setMEM v).cache = s.cache := rfl
@[simp] theorem CoreState.setMEM_main (s : CoreState xlen) (v : Option (ExEntry xlen)) : (s.setMEM v).main = s.main := rfl
@[simp] theorem CoreState.setMEM_istate (s : CoreState xlen) (v : Option (ExEntry xlen)) : (s.setMEM v).istate = s.istate := rfl
@[simp] theorem CoreState.setMEM_metrics (s : CoreState xlen) (v : Option (ExEntry xlen)) : (s.setMEM v).metrics = s.metrics := rfl
@[simp] theorem CoreState.setMEM_dev (s : CoreState xlen) (v : Option (ExEntry xlen)) : (s.setMEM v).dev = s.dev := rfl
@[simp] theorem CoreState.setMEM_triggers (s : CoreState xlen) (v : Option (ExEntry xlen)) : (s.setMEM v).triggers = s.triggers := rfl
@[simp] theorem CoreState.setMEM_maxCycles (s : CoreState xlen) (v : Option (ExEntry xlen)) : (s.setMEM v).maxCycles = s.maxCycles := rfl
@[simp] theorem CoreState.setMEM_status (s : CoreState xlen) (v : Option (ExEntry xlen)) : (s.setMEM v).status = s.status := rfl
@[simp] theorem CoreState.setMEM_signals (s : CoreState xlen) (v : Option (ExEntry xlen)) : (s.setMEM v).signals = s.signals := rfl

@[simp] theorem CoreState.setWB_params (s : CoreState xlen) (v : Option (ExEntry xlen)) : (s.setWB v).params = s.params := rfl
@[simp] theorem CoreState.setWB_prog (s : CoreState xlen) (v : Option (ExEntry xlen)) : (s.setWB v).prog = s.prog := rfl
@[simp] theorem CoreState.setWB_regs (s : CoreState xlen) (v : Option (ExEntry xlen)) : (s.setWB v).regs = s.regs := rfl
@[simp] theorem CoreState.setWB_z (s : CoreState xlen) (v : Option (ExEntry xlen)) : (s.setWB v).z = s.z := rfl
@[simp] theorem CoreState.setWB_pc (s : CoreState xlen) (v : Option (ExEntry xlen)) : (s.setWB v).pc = s.pc := rfl
@[simp] theorem CoreState.setWB_ifL (s : CoreState xlen) (v : Option (ExEntry xlen)) : (s.setWB v).ifL = s.ifL := rfl
@[simp] theorem CoreState.setWB_idL (s : CoreState xlen) (v : Option (ExEntry xlen)) : (s.setWB v).idL = s.idL := rfl
@[simp] theorem CoreState.setWB_exL (s : CoreState xlen) (v : Option (ExEntry xlen)) : (s.setWB v).exL = s.exL := rfl
@[simp] theorem CoreState.setWB_memL (s : CoreState xlen) (v : Option (ExEntry xlen)) : (s.setWB v).memL = s.memL := rfl
@[simp] theorem CoreState.setWB_wbL (s : CoreState xlen) (v : Option (ExEntry xlen)) : (s.setWB v).wbL = v := rfl
@[simp] theorem CoreState.setWB_cache (s : CoreState xlen) (v : Option (ExEntry xlen)) : (s.setWB v).cache = s.cache := rfl
@[simp] theorem CoreState.setWB_main (s : CoreState xlen) (v : Option (ExEntry xlen)) : (s.setWB v).main = s.main := rfl
@[simp] theorem CoreState.setWB_istate (s : CoreState xlen) (v : Option (ExEntry xlen)) : (s.setWB v).istate = s.istate := rfl
@[simp] theorem CoreState.setWB_metrics (s : CoreState xlen) (v : Option (ExEntry xlen)) : (s.setWB v).metrics = s.metrics := rfl
@[simp] theorem CoreState.setWB_dev (s : CoreState xlen) (v : Option (ExEntry xlen)) : (s.setWB v).dev = s.dev := rfl
@[simp] theorem CoreState.setWB_triggers (s : CoreState xlen) (v : Option (ExEntry xlen)) : (s.setWB v).triggers = s.triggers := rfl
@[simp] theorem CoreState.setWB_maxCycles (s : CoreState xlen) (v : Option (ExEntry xlen)) : (s.setWB v).maxCycles = s.maxCycles := rfl
@[simp] theorem CoreState.setWB_status (s : CoreState xlen) (v : Option (ExEntry xlen)) : (s.setWB v).status = s.status := rfl
@[simp] theorem CoreState.setWB_signals (s : CoreState xlen) (v : Option (ExEntry xlen)) : (s.setWB v).signals = s.signals := rfl

@[simp] theorem CoreState.setCache_params (s : CoreState xlen) (v : List (Line xlen)) : (s.setCache v).params = s.params := rfl
@[simp] theorem CoreState.setCache_prog (s : CoreState xlen) (v : List (Line xlen)) : (s.setCache v).prog = s.prog := rfl
@[simp] theorem CoreState.setCache_regs (s : CoreState xlen) (v : List (Line xlen)) : (s.setCache v).regs = s.regs := rfl
@[simp] theorem CoreState.setCache_z (s : CoreState xlen) (v : List (Line xlen)) : (s.setCache v).z = s.z := rfl
@[simp] theorem CoreState.setCache_pc (s : CoreState xlen) (v : List (Line xlen)) : (s.setCache v).pc = s.pc := rfl
@[simp] theorem CoreState.setCache_ifL (s : CoreState xlen) (v : List (Line xlen)) : (s.setCache v).ifL = s.ifL := rfl
@[simp] theorem CoreState.setCache_idL (s : CoreState xlen) (v : List (Line xlen)) : (s.setCache v).idL = s.idL := rfl
@[simp] theorem CoreState.setCache_exL (s : CoreState xlen) (v : List (Line xlen)) : (s.setCache v).exL = s.exL := rfl
@[simp] theorem CoreState.setCache_memL (s : CoreState xlen) (v : List (Line xlen)) : (s.setCache v).memL = s.memL := rfl
@[simp] theorem CoreState.setCache_wbL (s : CoreState xlen) (v : List (Line xlen)) : (s.setCache v).wbL = s.wbL := rfl
@[simp] theorem CoreState.setCache_cache (s : CoreState xlen) (v : List (Line xlen)) : (s.setCache v).cache = v := rfl
@[simp] theorem CoreState.setCache_main (s : CoreState xlen) (v : List (Line xlen)) : (s.setCache v).main = s.main := rfl
@[simp] theorem CoreState.setCache_istate (s : CoreState xlen) (v : List (Line xlen)) : (s.setCache v).istate = s.istate := rfl
@[simp] theorem CoreState.setCache_metrics (s : CoreState xlen) (v : List (Line xlen)) : (s.setCache v).metrics = s.metrics := rfl
@[simp] theorem CoreState.setCache_dev (s : CoreState xlen) (v : List (Line xlen)) : (s.setCache v).dev = s.dev := rfl
@[simp] theorem CoreState.setCache_triggers (s : CoreState xlen) (v : List (Line xlen)) : (s.setCache v).triggers = s.triggers := rfl
@[simp] theorem CoreState.setCache_maxCycles (s : CoreState xlen) (v : List (Line xlen)) : (s.setCache v).maxCycles = s.maxCycles := rfl
@[simp] theorem CoreState.setCache_status (s : CoreState xlen) (v : List (Line xlen)) : (s.setCache v).status = s.status := rfl
@[simp] theorem CoreState.setCache_signals (s : CoreState xlen) (v : List (Line xlen)) : (s.setCache v).signals = s.signals := rfl

@[simp] theorem CoreState.setMain_params (s : CoreState xlen) (v : Memory xlen) : (s.setMain v).params = s.params := rfl
@[simp] theorem CoreState.setMain_prog (s : CoreState xlen) (v : Memory xlen) : (s.setMain v).prog = s.prog := rfl
@[simp] theorem CoreState.setMain_regs (s : CoreState xlen) (v : Memory xlen) : (s.setMain v).regs = s.regs := rfl
@[simp] theorem CoreState.setMain_z (s : CoreState xlen) (v : Memory xlen) : (s.setMain v).z = s.z := rfl
@[simp] theorem CoreState.setMain_pc (s : CoreState xlen) (v : Memory xlen) : (s.setMain v).pc = s.pc := rfl
@[simp] theorem CoreState.setMain_ifL (s : CoreState xlen) (v : Memory xlen) : (s.setMain v).ifL = s.ifL := rfl
@[simp] theorem CoreState.setMain_idL (s : CoreState xlen) (v : Memory xlen) : (s.setMain v).idL = s.idL := rfl
@[simp] theorem CoreState.setMain_exL (s : CoreState xlen) (v : Memory xlen) : (s.setMain v).exL = s.exL := rfl
@[simp] theorem CoreState.setMain_memL (s : CoreState xlen) (v : Memory xlen) : (s.setMain v).memL = s.memL := rfl
@[simp] theorem CoreState.setMain_wbL (s : CoreState xlen) (v : Memory xlen) : (s.setMain v).wbL = s.wbL := rfl
@[simp] theorem CoreState.setMain_cache (s : CoreState xlen) (v : Memory xlen) : (s.setMain v).cache = s.cache := rfl
@[simp] theorem CoreState.setMain_main (s : CoreState xlen) (v : Memory xlen) : (s.setMain v).main = v := rfl
@[simp] theorem CoreState.setMain_istate (s : CoreState xlen) (v : Memory xlen) : (s.setMain v).istate = s.istate := rfl
@[simp] theorem CoreState.setMain_metrics (s : CoreState xlen) (v : Memory xlen) : (s.setMain v).metrics = s.metrics := rfl
@[simp] theorem CoreState.setMain_dev (s : CoreState xlen) (v : Memory xlen) : (s.setMain v).dev = s.dev := rfl
@[simp] theorem CoreState.setMain_triggers (s : CoreState xlen) (v : Memory xlen) : (s.setMain v).triggers = s.triggers := rfl
@[simp] theorem CoreState.setMain_maxCycles (s : CoreState xlen) (v : Memory xlen) : (s.setMain v).maxCycles = s.maxCycles := rfl
@[simp] theorem CoreState.setMain_status (s : CoreState xlen) (v : Memory xlen) : (s.setMain v).status = s.status := rfl
@[simp] theorem CoreState.setMain_signals (s : CoreState xlen) (v : Memory xlen) : (s.setMain v).signals = s.signals := rfl

@[simp] theorem CoreState.setIstate_params (s : CoreState xlen) (v : InterruptState xlen) : (s.setIstate v).params = s.params := rfl
@[simp] theorem CoreState.setIstate_prog (s : CoreState xlen) (v : InterruptState xlen) : (s.setIstate v).prog = s.prog := rfl
@[simp] theorem CoreState.setIstate_regs (s : CoreState xlen) (v : InterruptState xlen) : (s.setIstate v).regs = s.regs := rfl
@[simp] theorem CoreState.setIstate_z (s : CoreState xlen) (v : InterruptState xlen) : (s.setIstate v).z = s.z := rfl
@[simp] theorem CoreState.setIstate_pc (s : CoreState xlen) (v : InterruptState xlen) : (s.setIstate v).pc = s.pc := rfl
@[simp] theorem CoreState.setIstate_ifL (s : CoreState xlen) (v : InterruptState xlen) : (s.setIstate v).ifL = s.ifL := rfl
@[simp] theorem CoreState.setIstate_idL (s : CoreState xlen) (v : InterruptState xlen) : (s.setIstate v).idL = s.idL := rfl
@[simp] theorem CoreState.setIstate_exL (s : CoreState xlen) (v : InterruptState xlen) : (s.setIstate v).exL = s.exL := rfl
@[simp] theorem CoreState.setIstate_memL (s : CoreState xlen) (v : InterruptState xlen) : (s.setIstate v).memL = s.memL := rfl
@[simp] theorem CoreState.setIstate_wbL (s : CoreState xlen) (v : InterruptState xlen) : (s.setIstate v).wbL = s.wbL := rfl
@[simp] theorem CoreState.setIstate_cache (s : CoreState xlen) (v : InterruptState xlen) : (s.setIstate v).cache = s.cache := rfl
@[simp] theorem CoreState.setIstate_main (s : CoreState xlen) (v : InterruptState xlen) : (s.setIstate v).main = s.main := rfl
@[simp] theorem CoreState.setIstate_istate (s : CoreState xlen) (v : InterruptState xlen) : (s.setIstate v).istate = v := rfl
@[simp] theorem CoreState.setIstate_metrics (s : CoreState xlen) (v : InterruptState xlen) : (s.setIstate v).metrics = s.metrics := rfl
@[simp] theorem CoreState.setIstate_dev (s : CoreState xlen) (v : InterruptState xlen) : (s.setIstate v).dev = s.dev := rfl
@[simp] theorem CoreState.setIstate_triggers (s : CoreState xlen) (v : InterruptState xlen) : (s.setIstate v).triggers = s.triggers := rfl
@[simp] theorem CoreState.setIstate_maxCycles (s : CoreState xlen) (v : InterruptState xlen) : (s.setIstate v).maxCycles = s.maxCycles := rfl
@[simp] theorem CoreState.setIstate_status (s : CoreState xlen) (v : InterruptState xlen) : (s.setIstate v).status = s.status := rfl
@[simp] theorem CoreState.setIstate_signals (s : CoreState xlen) (v : InterruptState xlen) : (s.setIstate v).signals = s.signals := rfl

@[simp] theorem CoreState.setMetrics_params (s : CoreState xlen) (v : Metrics) : (s.setMetrics v).params = s.params := rfl
@[simp] theorem CoreState.setMetrics_prog (s : CoreState xlen) (v : Metrics) : (s.setMetrics v).prog = s.prog := rfl
@[simp] theorem CoreState.setMetrics_regs (s : CoreState xlen) (v : Metrics) : (s.setMetrics v).regs = s.regs := rfl
@[simp] theorem CoreState.setMetrics_z (s : CoreState xlen) (v : Metrics) : (s.setMetrics v).z = s.z := rfl
@[simp] theorem CoreState.setMetrics_pc (s : CoreState xlen) (v : Metrics) : (s.setMetrics v).pc = s.pc := rfl
@[simp] theorem CoreState.setMetrics_ifL (s : CoreState xlen) (v : Metrics) : (s.setMetrics v).ifL = s.ifL := rfl
@[simp] theorem CoreState.setMetrics_idL (s : CoreState xlen) (v : Metrics) : (s.setMetrics v).idL = s.idL := rfl
@[simp] theorem CoreState.setMetrics_exL (s : CoreState xlen) (v : Metrics) : (s.setMetrics v).exL = s.exL := rfl
@[simp] theorem CoreState.setMetrics_memL (s : CoreState xlen) (v : Metrics) : (s.setMetrics v).memL = s.memL := rfl
@[simp] theorem CoreState.setMetrics_wbL (s : CoreState xlen) (v : Metrics) : (s.setMetrics v).wbL = s.wbL := rfl
@[simp] theorem CoreState.setMetrics_cache (s : CoreState xlen) (v : Metrics) : (s.setMetrics v).cache = s.cache := rfl
@[simp] theorem CoreState.setMetrics_main (s : CoreState xlen) (v : Metrics) : (s.setMetrics v).main = s.main := rfl
@[simp] theorem CoreState.setMetrics_istate (s : CoreState xlen) (v : Metrics) : (s.setMetrics v).istate = s.istate := rfl
@[simp] theorem CoreState.setMetrics_metrics (s : CoreState xlen) (v : Metrics) : (s.setMetrics v).metrics = v := rfl
@[simp] theorem CoreState.setMetrics_dev (s : CoreState xlen) (v : Metrics) : (s.setMetrics v).dev = s.dev := rfl
@[simp] theorem CoreState.setMetrics_triggers (s : CoreState xlen) (v : Metrics) : (s.setMetrics v).triggers = s.triggers := rfl
@[simp] theorem CoreState.setMetrics_maxCycles (s : CoreState xlen) (v : Metrics) : (s.setMetrics v).maxCycles = s.maxCycles := rfl
@[simp] theorem CoreState.setMetrics_status (s : CoreState xlen) (v : Metrics) : (s.setMetrics v).status = s.status := rfl
@[simp] theorem CoreState.setMetrics_signals (s : CoreState xlen) (v : Metrics) : (s.setMetrics v).signals = s.signals := rfl

@[simp] theorem CoreState.setDev_params (s : CoreState xlen) (v : Device xlen) : (s.setDev v).params = s.params := rfl
@[simp] theorem CoreState.setDev_prog (s : CoreState xlen) (v : Device xlen) : (s.setDev v).prog = s.prog := rfl
@[simp] theorem CoreState.setDev_regs (s : CoreState xlen) (v : Device xlen) : (s.setDev v).regs = s.regs := rfl
@[simp] theorem CoreState.setDev_z (s : CoreState xlen) (v : Device xlen) : (s.setDev v).z = s.z := rfl
@[simp] theorem CoreState.setDev_pc (s : CoreState xlen) (v : Device xlen) : (s.setDev v).pc = s.pc := rfl
@[simp] theorem CoreState.setDev_ifL (s : CoreState xlen) (v : Device xlen) : (s.setDev v).ifL = s.ifL := rfl
@[simp] theorem CoreState.setDev_idL (s : CoreState xlen) (v : Device xlen) : (s.setDev v).idL = s.idL := rfl
@[simp] theorem CoreState.setDev_exL (s : CoreState xlen) (v : Device xlen) : (s.setDev v).exL = s.exL := rfl
@[simp] theorem CoreState.setDev_memL (s : CoreState xlen) (v : Device xlen) : (s.setDev v).memL = s.memL := rfl
@[simp] theorem CoreState.setDev_wbL (s : CoreState xlen) (v : Device xlen) : (s.setDev v).wbL = s.wbL := rfl
@[simp] theorem CoreState.setDev_cache (s : CoreState xlen) (v : Device xlen) : (s.setDev v).cache = s.cache := rfl
@[simp] theorem CoreState.setDev_main (s : CoreState xlen) (v : Device xlen) : (s.setDev v).main = s.main := rfl
@[simp] theorem CoreState.setDev_istate (s : CoreState xlen) (v : Device xlen) : (s.setDev v).istate = s.istate := rfl
@[simp] theorem CoreState.setDev_metrics (s : CoreState xlen) (v : Device xlen) : (s.setDev v).metrics = s.metrics := rfl
@[simp] theorem CoreState.setDev_dev (s : CoreState xlen) (v : Device xlen) : (s.setDev v).dev = v := rfl
@[simp] theorem CoreState.setDev_triggers (s : CoreState xlen) (v : Device xlen) : (s.setDev v).triggers = s.triggers := rfl
@[simp] theorem CoreState.setDev_maxCycles (s : CoreState xlen) (v : Device xlen) : (s.setDev v).maxCycles = s.maxCycles := rfl
@[simp] theorem CoreState.setDev_status (s : CoreState xlen) (v : Device xlen) : (s.setDev v).status = s.status := rfl
@[simp] theorem CoreState.setDev_signals (s : CoreState xlen) (v : Device xlen) : (s.setDev v).signals = s.signals := rfl

@[simp] theorem CoreState.setProg_params (s : CoreState xlen) (v : List (ProgItem xlen)) : (s.setProg v).params = s.params := rfl
@[simp] theorem CoreState.setProg_prog (s : CoreState xlen) (v : List (ProgItem xlen)) : (s.setProg v).prog = v := rfl
@[simp] theorem CoreState.setProg_regs (s : CoreState xlen) (v : List (ProgItem xlen)) : (s.setProg v).regs = s.regs := rfl
@[simp] theorem CoreState.setProg_z (s : CoreState xlen) (v : List (ProgItem xlen)) : (s.setProg v).z = s.z := rfl
@[simp] theorem CoreState.setProg_pc (s : CoreState xlen) (v : List (ProgItem xlen)) : (s.setProg v).pc = s.pc := rfl
@[simp] theorem CoreState.setProg_ifL (s : CoreState xlen) (v : List (ProgItem xlen)) : (s.setProg v).ifL = s.ifL := rfl
@[simp] theorem CoreState.setProg_idL (s : CoreState xlen) (v : List (ProgItem xlen)) : (s.setProg v).idL = s.idL := rfl
@[simp] theorem CoreState.setProg_exL (s : CoreState xlen) (v : List (ProgItem xlen)) : (s.setProg v).exL = s.exL := rfl
@[simp] theorem CoreState.setProg_memL (s : CoreState xlen) (v : List (ProgItem xlen)) : (s.setProg v).memL = s.memL := rfl
@[simp] theorem CoreState.setProg_wbL (s : CoreState xlen) (v : List (ProgItem xlen)) : (s.setProg v).wbL = s.wbL := rfl
@[simp] theorem CoreState.setProg_cache (s : CoreState xlen) (v : List (ProgItem xlen)) : (s.setProg v).cache = s.cache := rfl
@[simp] theorem CoreState.setProg_main (s : CoreState xlen) (v : List (ProgItem xlen)) : (s.setProg v).main = s.main := rfl
@[simp] theorem CoreState.setProg_istate (s : CoreState xlen) (v : List (ProgItem xlen)) : (s.setProg v).istate = s.istate := rfl
@[simp] theorem CoreState.setProg_metrics (s : CoreState xlen) (v : List (ProgItem xlen)) : (s.setProg v).metrics = s.metrics := rfl
@[simp] theorem CoreState.setProg_dev (s : CoreState xlen) (v : List (ProgItem xlen)) : (s.setProg v).dev = s.dev := rfl
@[simp] theorem CoreState.setProg_triggers (s : CoreState xlen) (v : List (ProgItem xlen)) : (s.setProg v).triggers = s.triggers := rfl
@[simp] theorem CoreState.setProg_maxCycles (s : CoreState xlen) (v : List (ProgItem xlen)) : (s.setProg v).maxCycles = s.maxCycles := rfl
@[simp] theorem CoreState.setProg_status (s : CoreState xlen) (v : List (ProgItem xlen)) : (s.setProg v).status = s.status := rfl
@[simp] theorem CoreState.setProg_signals (s : CoreState xlen) (v : List (ProgItem xlen)) : (s.setProg v).signals = s.signals := rfl

@[simp] theorem CoreState.setStatus_params (s : CoreState xlen) (v : RunStatus) : (s.setStatus v).params = s.params := rfl
@[simp] theorem CoreState.setStatus_prog (s : CoreState xlen) (v : RunStatus) : (s.setStatus v).prog = s.prog := rfl
@[simp] theorem CoreState.setStatus_regs (s : CoreState xlen) (v : RunStatus) : (s.setStatus v).regs = s.regs := rfl
@[simp] theorem CoreState.setStatus_z (s : CoreState xlen) (v : RunStatus) : (s.setStatus v).z = s.z := rfl
@[simp] theorem CoreState.setStatus_pc (s : CoreState xlen) (v : RunStatus) : (s.setStatus v).pc = s.pc := rfl
@[simp] theorem CoreState.setStatus_ifL (s : CoreState xlen) (v : RunStatus) : (s.setStatus v).ifL = s.ifL := rfl
@[simp] theorem CoreState.setStatus_idL (s : CoreState xlen) (v : RunStatus) : (s.setStatus v).idL = s.idL := rfl
@[simp] theorem CoreState.setStatus_exL (s : CoreState xlen) (v : RunStatus) : (s.setStatus v).exL = s.exL := rfl
@[simp] theorem CoreState.setStatus_memL (s : CoreState xlen) (v : RunStatus) : (s.setStatus v).memL = s.memL := rfl
@[simp] theorem CoreState.setStatus_wbL (s : CoreState xlen) (v : RunStatus) : (s.setStatus v).wbL = s.wbL := rfl
@[simp] theorem CoreState.setStatus_cache (s : CoreState xlen) (v : RunStatus) : (s.setStatus v).cache = s.cache := rfl
@[simp] theorem CoreState.setStatus_main (s : CoreState xlen) (v : RunStatus) : (s.setStatus v).main = s.main := rfl
@[simp] theorem CoreState.setStatus_istate (s : CoreState xlen) (v : RunStatus) : (s.setStatus v).istate = s.istate := rfl
@[simp] theorem CoreState.setStatus_metrics (s : CoreState xlen) (v : RunStatus) : (s.setStatus v).metrics = s.metrics := rfl
@[simp] theorem CoreState.setStatus_dev (s : CoreState xlen) (v : RunStatus) : (s.setStatus v).dev = s.dev := rfl
@[simp] theorem CoreState.setStatus_triggers (s : CoreState xlen) (v : RunStatus) : (s.setStatus v).triggers = s.triggers := rfl
@[simp] theorem CoreState.setStatus_maxCycles (s : CoreState xlen) (v : RunStatus) : (s.setStatus v).maxCycles = s.maxCycles := rfl
@[simp] theorem CoreState.setStatus_status (s : CoreState xlen) (v : RunStatus) : (s.setStatus v).status = v := rfl
@[simp] theorem CoreState.setStatus_signals (s : CoreState xlen) (v : RunStatus) : (s.setStatus v).signals = s.signals := rfl

@[simp] theorem CoreState.setSignals_params (s : CoreState xlen) (v : Signals) : (s.setSignals v).params = s.params := rfl
@[simp] theorem CoreState.setSignals_prog (s : CoreState xlen) (v : Signals) : (s.setSignals v).prog = s.prog := rfl
@[simp] theorem CoreState.setSignals_regs (s : CoreState xlen) (v : Signals) : (s.setSignals v).regs = s.regs := rfl
@[simp] theorem CoreState.setSignals_z (s : CoreState xlen) (v : Signals) : (s.setSignals v).z = s.z := rfl
@[simp] theorem CoreState.setSignals_pc (s : CoreState xlen) (v : Signals) : (s.setSignals v).pc = s.pc := rfl
@[simp] theorem CoreState.setSignals_ifL (s : CoreState xlen) (v : Signals) : (s.setSignals v).ifL = s.ifL := rfl
@[simp] theorem CoreState.setSignals_idL (s : CoreState xlen) (v : Signals) : (s.setSignals v).idL = s.idL := rfl
@[simp] theorem CoreState.setSignals_exL (s : CoreState xlen) (v : Signals) : (s.setSignals v).exL = s.exL := rfl
@[simp] theorem CoreState.setSignals_memL (s : CoreState xlen) (v : Signals) : (s.setSignals v).memL = s.memL := rfl
@[simp] theorem CoreState.setSignals_wbL (s : CoreState xlen) (v : Signals) : (s.setSignals v).wbL = s.wbL := rfl
@[simp] theorem CoreState.setSignals_cache (s : CoreState xlen) (v : Signals) : (s.setSignals v).cache = s.cache := rfl
@[simp] theorem CoreState.setSignals_main (s : CoreState xlen) (v : Signals) : (s.setSignals v).main = s.main := rfl
@[simp] theorem CoreState.setSignals_istate (s : CoreState xlen) (v : Signals) : (s.setSignals v).istate = s.istate := rfl
@[simp] theorem CoreState.setSignals_metrics (s : CoreState xlen) (v : Signals) : (s.setSignals v).metrics = s.metrics := rfl
@[simp] theorem CoreState.setSignals_dev (s : CoreState xlen) (v : Signals) : (s.setSignals v).dev = s.dev := rfl
@[simp] theorem CoreState.setSignals_triggers (s : CoreState xlen) (v : Signals) : (s.setSignals v).triggers = s.triggers := rfl
@[simp] theorem CoreState.setSignals_maxCycles (s : CoreState xlen) (v : Signals) : (s.setSignals v).maxCycles = s.maxCycles := rfl
@[simp] theorem CoreState.setSignals_status (s : CoreState xlen) (v : Signals) : (s.setSignals v).status = s.status := rfl
@[simp] theorem CoreState.setSignals_signals (s : CoreState xlen) (v : Signals) : (s.setSignals v).signals = v := rfl

@[simp] theorem CoreState.atStage_params (s : CoreState xlen) (st : Stage) : (s.atStage st).params = s.params := rfl
@[simp] theorem CoreState.setFetchEn_params (s : CoreState xlen) (b : Bool) : (s.setFetchEn b).params = s.params := rfl
@[simp] theorem CoreState.atStage_prog (s : CoreState xlen) (st : Stage) : (s.atStage st).prog = s.prog := rfl
@[simp] theorem CoreState.setFetchEn_prog (s : CoreState xlen) (b : Bool) : (s.setFetchEn b).prog = s.prog := rfl
@[simp] theorem CoreState.atStage_regs (s : CoreState xlen) (st : Stage) : (s.atStage st).regs = s.regs := rfl
@[simp] theorem CoreState.setFetchEn_regs (s : CoreState xlen) (b : Bool) : (s.setFetchEn b).regs = s.regs := rfl
@[simp] theorem CoreState.atStage_z (s : CoreState xlen) (st : Stage) : (s.atStage st).z = s.z := rfl
@[simp] theorem CoreState.setFetchEn_z (s : CoreState xlen) (b : Bool) : (s.setFetchEn b).z = s.z := rfl
@[simp] theorem CoreState.atStage_pc (s : CoreState xlen) (st : Stage) : (s.atStage st).pc = s.pc := rfl
@[simp] theorem CoreState.setFetchEn_pc (s : CoreState xlen) (b : Bool) : (s.setFetchEn b).pc = s.pc := rfl
@[simp] theorem CoreState.atStage_ifL (s : CoreState xlen) (st : Stage) : (s.atStage st).ifL = s.ifL := rfl
@[simp] theorem CoreState.setFetchEn_ifL (s : CoreState xlen) (b : Bool) : (s.setFetchEn b).ifL = s.ifL := rfl
@[simp] theorem CoreState.atStage_idL (s : CoreState xlen) (st : Stage) : (s.atStage st).idL = s.idL := rfl
@[simp] theorem CoreState.setFetchEn_idL (s : CoreState xlen) (b : Bool) : (s.setFetchEn b).idL = s.idL := rfl
@[simp] theorem CoreState.atStage_exL (s : CoreState xlen) (st : Stage) : (s.atStage st).exL = s.exL := rfl
@[simp] theorem CoreState.setFetchEn_exL (s : CoreState xlen) (b : Bool) : (s.setFetchEn b).exL = s.exL := rfl
@[simp] theorem CoreState.atStage_memL (s : CoreState xlen) (st : Stage) : (s.atStage st).memL = s.memL := rfl
@[simp] theorem CoreState.setFetchEn_memL (s : CoreState xlen) (b : Bool) : (s.setFetchEn b).memL = s.memL := rfl
@[simp] theorem CoreState.atStage_wbL (s : CoreState xlen) (st : Stage) : (s.atStage st).wbL = s.wbL := rfl
@[simp] theorem CoreState.setFetchEn_wbL (s : CoreState xlen) (b : Bool) : (s.setFetchEn b).wbL = s.wbL := rfl
@[simp] theorem CoreState.atStage_cache (s : CoreState xlen) (st : Stage) : (s.atStage st).cache = s.cache := rfl
@[simp] theorem CoreState.setFetchEn_cache (s : CoreState xlen) (b : Bool) : (s.setFetchEn b).cache = s.cache := rfl
@[simp] theorem CoreState.atStage_main (s : CoreState xlen) (st : Stage) : (s.atStage st).main = s.main := rfl
@[simp] theorem CoreState.setFetchEn_main (s : CoreState xlen) (b : Bool) : (s.setFetchEn b).main = s.main := rfl
@[simp] theorem CoreState.atStage_istate (s : CoreState xlen) (st : Stage) : (s.atStage st).istate = s.istate := rfl
@[simp] theorem CoreState.setFetchEn_istate (s : CoreState xlen) (b : Bool) : (s.setFetchEn b).istate = s.istate := rfl
@[simp] theorem CoreState.atStage_metrics (s : CoreState xlen) (st : Stage) : (s.atStage st).metrics = s.metrics := rfl
@[simp] theorem CoreState.setFetchEn_metrics (s : CoreState xlen) (b : Bool) : (s.setFetchEn b).metrics = s.metrics := rfl
@[simp] theorem CoreState.atStage_dev (s : CoreState xlen) (st : Stage) : (s.atStage st).dev = s.dev := rfl
@[simp] theorem CoreState.setFetchEn_dev (s : CoreState xlen) (b : Bool) : (s.setFetchEn b).dev = s.dev := rfl
@[simp] theorem CoreState.atStage_triggers (s : CoreState xlen) (st : Stage) : (s.atStage st).triggers = s.triggers := rfl
@[simp] theorem CoreState.setFetchEn_triggers (s : CoreState xlen) (b : Bool) : (s.setFetchEn b).triggers = s.triggers := rfl
@[simp] theorem CoreState.atStage_maxCycles (s : CoreState xlen) (st : Stage) : (s.atStage st).maxCycles = s.maxCycles := rfl
@[simp] theorem CoreState.setFetchEn_maxCycles (s : CoreState xlen) (b : Bool) : (s.setFetchEn b).maxCycles = s.maxCycles := rfl
@[simp] theorem CoreState.atStage_status (s : CoreState xlen) (st : Stage) : (s.atStage st).status = s.status := rfl
@[simp] theorem CoreState.setFetchEn_status (s : CoreState xlen) (b : Bool) : (s.setFetchEn b).status = s.status := rfl
@[simp] theorem CoreState.atStage_stage (s : CoreState xlen) (st : Stage) : (s.atStage st).signals.stage = st := rfl
@[simp] theorem CoreState.atStage_fetchEn (s : CoreState xlen) (st : Stage) :
    (s.atStage st).signals.fetchEn = s.signals.fetchEn := rfl
@[simp] theorem CoreState.setFetchEn_stage (s : CoreState xlen) (b : Bool) : (s.setFetchEn b).signals.stage = s.signals.stage := rfl
@[simp] theorem CoreState.setFetchEn_fetchEn (s : CoreState xlen) (b : Bool) : (s.setFetchEn b).signals.fetchEn = b := rfl

end Sys2Proof.Machine
end

