-- ==== Sys2Proof/Laws/Memory.lean ====
section
/-! SUPPORT. Main memory: reading after writing, and the canonical form that every operation keeps. -/

namespace Sys2Proof.Machine

variable {xlen : Nat}

@[simp] theorem readMain_nil (a : Nat) : readMain ([] : Memory xlen) a = unlistedWord := rfl

theorem readMain_cons (k : Nat) (v : Word xlen) (m : Memory xlen) (a : Nat) :
    readMain ((k, v) :: m) a = if k = a then v else readMain m a := rfl

theorem risingFrom_cons (lo k : Nat) (v : Word xlen) (m : Memory xlen) :
    risingFrom lo ((k, v) :: m) = true ↔ lo ≤ k ∧ v ≠ unlistedWord ∧ risingFrom (k + 1) m = true := by
  simp [risingFrom, Bool.and_eq_true, and_assoc]

theorem risingFrom_mono {lo lo' : Nat} (h : lo' ≤ lo) :
    ∀ {m : Memory xlen}, risingFrom lo m = true → risingFrom lo' m = true
  | [], _ => rfl
  | (k, v) :: m, hm => by
    rw [risingFrom_cons] at hm ⊢
    exact ⟨by omega, hm.2⟩

/-- Below the lowest listed address a canonical memory reads as unlisted. -/
theorem readMain_below {lo : Nat} :
    ∀ {m : Memory xlen}, risingFrom lo m = true → ∀ {a : Nat}, a < lo → readMain m a = unlistedWord
  | [], _, _, _ => rfl
  | (k, v) :: m, hm, a, ha => by
    rw [risingFrom_cons] at hm
    rw [readMain_cons, if_neg (by omega)]
    exact readMain_below hm.2.2 (by omega)

/-- What a canonical memory reads after a write: the value at the address written, and everywhere else as before. -/
theorem readMain_writeMain_from {lo : Nat} (a : Nat) (v : Word xlen) (b : Nat) :
    ∀ {m : Memory xlen}, risingFrom lo m = true →
      readMain (writeMain m a v) b = if b = a then v else readMain m b
  | [], _ => by
    by_cases hv : v = unlistedWord
    · simp [writeMain, hv]
    · simp [writeMain, hv, readMain_cons, eq_comm]
  | (k, u) :: m, hm => by
    have hm' := hm
    rw [risingFrom_cons] at hm'
    obtain ⟨hk, hu, hrest⟩ := hm'
    unfold writeMain
    by_cases hak : a < k
    · rw [if_pos hak]
      by_cases hv : v = unlistedWord
      · rw [if_pos hv]
        by_cases hb : b = a
        · subst hb
          rw [if_pos rfl, readMain_cons, if_neg (by omega), hv]
          exact readMain_below hrest (by omega)
        · rw [if_neg hb]
      · rw [if_neg hv, readMain_cons]
        by_cases hb : b = a
        · rw [if_pos hb.symm, if_pos hb]
        · rw [if_neg (fun h => hb h.symm), if_neg hb]
    · rw [if_neg hak]
      by_cases hka : a = k
      · rw [if_pos hka]
        subst hka
        by_cases hv : v = unlistedWord
        · rw [if_pos hv]
          by_cases hb : b = a
          · subst hb
            rw [if_pos rfl, hv]
            exact readMain_below hrest (by omega)
          · rw [if_neg hb, readMain_cons, if_neg (fun h => hb h.symm)]
        · rw [if_neg hv, readMain_cons, readMain_cons]
          by_cases hb : b = a
          · rw [if_pos hb.symm, if_pos hb]
          · rw [if_neg (fun h => hb h.symm), if_neg hb, if_neg (fun h => hb h.symm)]
      · rw [if_neg hka, readMain_cons, readMain_cons, readMain_writeMain_from a v b hrest]
        by_cases hb : b = a
        · subst hb
          rw [if_neg (fun h => hka h.symm), if_pos rfl, if_pos rfl]
        · rw [if_neg hb, if_neg hb]

/-- A write keeps the addresses rising from any bound that is not above the address written. -/
theorem risingFrom_writeMain {lo : Nat} (a : Nat) (v : Word xlen) (ha : lo ≤ a) :
    ∀ {m : Memory xlen}, risingFrom lo m = true → risingFrom lo (writeMain m a v) = true
  | [], _ => by
    by_cases hv : v = unlistedWord
    · simp [writeMain, hv, risingFrom]
    · simp [writeMain, hv, risingFrom, ha]
  | (k, u) :: m, hm => by
    have hm' := hm
    rw [risingFrom_cons] at hm'
    obtain ⟨hk, hu, hrest⟩ := hm'
    unfold writeMain
    by_cases hak : a < k
    · rw [if_pos hak]
      by_cases hv : v = unlistedWord
      · rw [if_pos hv]; exact hm
      · rw [if_neg hv, risingFrom_cons, risingFrom_cons]
        exact ⟨ha, hv, by omega, hu, hrest⟩
    · rw [if_neg hak]
      by_cases hka : a = k
      · rw [if_pos hka]
        subst hka
        by_cases hv : v = unlistedWord
        · rw [if_pos hv]; exact risingFrom_mono (by omega) hrest
        · rw [if_neg hv, risingFrom_cons]; exact ⟨hk, hv, hrest⟩
      · rw [if_neg hka, risingFrom_cons]
        exact ⟨hk, hu, risingFrom_writeMain a v (by omega) hrest⟩

/-- Read after write, on a canonical memory. -/
theorem readMain_writeMain {m : Memory xlen} (hm : m.wf = true) (a : Nat) (v : Word xlen) (b : Nat) :
    readMain (writeMain m a v) b = if b = a then v else readMain m b :=
  readMain_writeMain_from a v b hm

/-- A write keeps the canonical form. -/
theorem Memory.wf_writeMain {m : Memory xlen} (hm : m.wf = true) (a : Nat) (v : Word xlen) :
    Memory.wf (writeMain m a v) = true :=
  risingFrom_writeMain a v (Nat.zero_le a) hm

/-- The memory a run starts with is canonical, whatever the host lists. -/
theorem Memory.wf_initialMain : ∀ l : List (Nat × Word xlen), Memory.wf (initialMain l) = true
  | [] => rfl
  | (a, v) :: rest => Memory.wf_writeMain (Memory.wf_initialMain rest) a v

/-- The reset state's memory is canonical. -/
theorem reset_main_wf : Memory.wf CoreState.reset.main = true := rfl

/-- Every word of a block fill is the word of Main it stands for. -/
theorem blockOf_getElem? (m : Memory xlen) (base n j : Nat) (h : j < n) :
    (blockOf m base n)[j]? = some (readMain m (base + j)) := by
  simp [blockOf, h]

@[simp] theorem blockOf_length (m : Memory xlen) (base n : Nat) : (blockOf m base n).length = n := by
  simp [blockOf]

end Sys2Proof.Machine
end

