-- ==== Sys2Proof/Laws/Ops.lean ====
section
/-! SUPPORT. What each shared operation can do, said once. -/

namespace Sys2Proof.Machine

variable {xlen : Nat}

/-! ### Registers, counters, the device -/

/-- A register write that answers has written exactly that register, which exists. -/
theorem writeReg_next {k : Nat} {v : Word xlen} {s t : CoreState xlen} (h : writeReg k v s = .next t) :
    k < s.regs.length ∧ t = s.setRegs (s.regs.set k v) := by
  unfold writeReg at h
  split at h
  · exact ⟨‹_›, by simpa using h.symm⟩
  · cases h

theorem writeReg_eq {k : Nat} {v : Word xlen} {s : CoreState xlen} (h : k < s.regs.length) :
    writeReg k v s = .next (s.setRegs (s.regs.set k v)) := by
  simp [writeReg, h]

/-- A stall changes the ID latch, the stall counter and the cycle's `fetch_en`, nothing else. -/
theorem stall_eq (s : CoreState xlen) :
    stall s = { s with
      idL := none, metrics := { s.metrics with stalls := s.metrics.stalls + 1 },
      signals := { s.signals with fetchEn := false } } := rfl

/-- A flush changes PC, the IF and ID latches and the cycle's `fetch_en`, nothing else. -/
theorem flushTo_eq (t : Word xlen) (s : CoreState xlen) :
    flushTo t s = { s with
      pc := t, ifL := none, idL := none, signals := { s.signals with fetchEn := false } } := rfl

/-! ### The cache controller -/

/-- A read hit counts a hit and changes nothing else. -/
theorem memReadState_hit {s : CoreState xlen} {a : Nat} (h : isHit s a = true) : memReadState s a = countHit s := by
  simp [memReadState, h]

/-- A read miss counts a miss and fills the line of the address, and changes nothing else. -/
theorem memReadState_miss {s : CoreState xlen} {a : Nat} (h : isHit s a = false) :
    memReadState s a = { s with
      metrics := { s.metrics with cacheMisses := s.metrics.cacheMisses + 1 },
      cache := s.cache.set (lineIndex s.params a) (filledLine s a) } := by
  rw [memReadState, if_neg (by simp [h])]
  rfl

/-- Whatever a read does, it changes the cache and the counters alone. -/
theorem memReadState_frame (s : CoreState xlen) (a : Nat) :
    memReadState s a = { s with cache := (memReadState s a).cache, metrics := (memReadState s a).metrics } := by
  unfold memReadState
  split <;> rfl

/-- A write hit writes the line and Main, and changes nothing else. -/
theorem memWrite_hit {s : CoreState xlen} {a : Nat} (v : Word xlen) (h : isHit s a = true) :
    memWrite s a v = { s with
      cache := s.cache.set (lineIndex s.params a) (writtenLine s a v), main := writeMain s.main a v } := by
  rw [memWrite, if_pos h]
  rfl

/-- A write miss writes Main and changes nothing else. -/
theorem memWrite_miss {s : CoreState xlen} {a : Nat} (v : Word xlen) (h : isHit s a = false) :
    memWrite s a v = { s with main := writeMain s.main a v } := by
  rw [memWrite, if_neg (by simp [h])]
  rfl

/-- Whatever a write does, it changes the cache and Main alone. -/
theorem memWrite_frame (s : CoreState xlen) (a : Nat) (v : Word xlen) :
    memWrite s a v = { s with cache := (memWrite s a v).cache, main := writeMain s.main a v } := by
  unfold memWrite
  split <;> rfl

theorem addressOk_iff (s : CoreState xlen) (a : Int) : addressOk s a = true ↔ 0 ≤ a ∧ a < s.params.memSize := by
  simp [addressOk]

/-! ### The interrupt -/

/-- The whole effect of an interrupt cycle that answers (60_exceptions.md R275, less the cycle's count). -/
theorem interruptCycle_next {s t : CoreState xlen} (h : interruptCycle s = .next t) :
    s.params.sentinelReg < s.regs.length ∧
    t = { s with
      regs := s.regs.set s.params.sentinelReg s.params.sentinelValue,
      dev := { ready := false, value := s.dev.value },
      metrics := { s.metrics with interrupts := s.metrics.interrupts + 1 },
      istate := { mode := .normal, savedPC := none } } := by
  unfold interruptCycle serviceRoutine at h
  split at h
  · rename_i s' hs
    obtain ⟨hk, rfl⟩ := writeReg_next hs
    refine ⟨hk, ?_⟩
    cases h
    rfl
  · cases h
  · cases h

/-! ### Raising a fault -/

/-- A raise that answers ended the run with the fault's record, and changed the status and the model's signals alone. -/
theorem endWithFault_next {f : Fault} {s t : CoreState xlen} (h : endWithFault f s = .next t) :
    ∃ r, dynamicRecord f s = some r ∧ t = (s.setStatus (.faulted r)).setSignals Signals.rest := by
  unfold endWithFault at h
  split at h
  · rename_i r hr
    exact ⟨r, hr, by simpa using h.symm⟩
  · cases h

end Sys2Proof.Machine
end

