-- ==== Sys2Proof/Laws/Cycle.lean ====
section
/-! SUPPORT. The frame of an instruction's meaning at each stage, and what a cycle and a step can do, said once. -/

namespace Sys2Proof.Machine

variable {xlen : Nat}

/-! ### The meaning of an instruction at the stage that is running -/

theorem atStageOf_fetch {i : Instr} {p : Parts xlen} {s : CoreState xlen} (h : s.signals.stage = .fetch) :
    atStageOf i p s = .next (fetchInstr i s) := by
  simp [atStageOf, h]

theorem atStageOf_decode {i : Instr} {p : Parts xlen} {s : CoreState xlen} {f : IfEntry} (h : s.signals.stage = .decode)
    (hf : s.ifL = some f) : atStageOf i p s = p.decode f s := by
  simp [atStageOf, h, hf]

theorem atStageOf_execute {i : Instr} {p : Parts xlen} {s : CoreState xlen} {d : IdEntry xlen} (h : s.signals.stage = .execute)
    (hd : s.idL = some d) : atStageOf i p s = p.execute d s := by
  simp [atStageOf, h, hd]

theorem atStageOf_memory {i : Instr} {p : Parts xlen} {s : CoreState xlen} {e : ExEntry xlen} (h : s.signals.stage = .memoryAccess)
    (he : s.exL = some e) : atStageOf i p s = p.memory e s := by
  simp [atStageOf, h, he]

theorem atStageOf_writeBack {i : Instr} {p : Parts xlen} {s : CoreState xlen} {m : ExEntry xlen} (h : s.signals.stage = .writeBack)
    (hm : s.memL = some m) : atStageOf i p s = p.writeBack m s := by
  simp [atStageOf, h, hm]

/-! ### The stage parts -/

/-- Decode of an instruction that is no branch: the resolved entry, or a stall. -/
theorem decodeSources_next {i : Instr} {dest : Option Nat} {srcs : List Operand} {f : IfEntry} {s t : CoreState xlen}
    (h : decodeSources i dest srcs f s = .next t) :
    (∃ vs, resolveAll srcs s = .values vs ∧ t = s.setID (some (decodedEntry f.idx i dest srcs vs none))) ∨
    (resolveAll srcs s = .stall ∧ t = stall s) := by
  unfold decodeSources at h
  split at h
  · rename_i vs hv
    exact .inl ⟨vs, hv, by simpa using h.symm⟩
  · rename_i hv
    exact .inr ⟨hv, by simpa using h.symm⟩
  · cases h

/-- A branch: flushed when taken, an entry with no effect when not. -/
theorem resolveBranch_next {i : Instr} {taken : CoreState xlen → Bool} {w : Word xlen} {f : IfEntry} {s t : CoreState xlen}
    (h : resolveBranch i taken w f s = .next t) :
    (taken s = true ∧ t = flushTo w s) ∨
    (taken s = false ∧ t = s.setID (some (decodedEntry f.idx i none [] [] (some w)))) := by
  unfold resolveBranch at h
  split at h
  · exact .inl ⟨‹_›, by simpa using h.symm⟩
  · rename_i hn
    exact .inr ⟨by simpa using hn, by simpa using h.symm⟩

/-- LOAD's memory part: the address exists, the cache was read, the word loaded is the result. -/
theorem accessLoad_next {e : ExEntry xlen} {s t : CoreState xlen} (h : accessLoad e s = .next t) :
    ∃ w, e.result = some w ∧ addressOk s (sx w) = true ∧
      t = (memReadState s (sx w).toNat).setMEM (some { e with result := some (memReadWord s (sx w).toNat) }) := by
  unfold accessLoad at h
  split at h
  · rename_i w hw
    split at h
    · exact ⟨w, hw, ‹_›, by simpa using h.symm⟩
    · cases h
  · cases h

/-- STORE's memory part: the address exists and the value was written. -/
theorem accessStore_next {e : ExEntry xlen} {s t : CoreState xlen} (h : accessStore e s = .next t) :
    ∃ w v, e.result = some w ∧ e.sval = some v ∧ addressOk s (sx w) = true ∧
      t = (memWrite s (sx w).toNat v).setMEM (some e) := by
  unfold accessStore at h
  split at h
  · rename_i w v hw hv
    split at h
    · exact ⟨w, v, hw, hv, ‹_›, by simpa using h.symm⟩
    · cases h
  · cases h

/-- Write-back of an instruction with a destination: the register exists and takes the result. -/
theorem commit_next {m : ExEntry xlen} {s t : CoreState xlen} (h : commit m s = .next t) :
    ∃ k v, m.dest = some k ∧ m.result = some v ∧ k < s.regs.length ∧
      t = (s.setWB (some m)).setRegs (s.regs.set k v) := by
  unfold commit at h
  split at h
  · rename_i k v hk hv
    obtain ⟨hl, ht⟩ := writeReg_next h
    exact ⟨k, v, hk, hv, by simpa using hl, by simpa using ht⟩
  · cases h

/-! ### Outcomes of a part, and of the machine it belongs to -/

@[simp] theorem ofWidth_eq_next {o : Out xlen} {t : CoreState xlen} :
    ofWidth o = .next { xlen := xlen, core := t } ↔ o = .next t := by
  cases o <;> simp [ofWidth]

@[simp] theorem ofWidth_eq_fault {o : Out xlen} {f : Fault} : ofWidth o = .fault f ↔ o = .fault f := by
  cases o <;> simp [ofWidth]

@[simp] theorem ofWidth_eq_refused {o : Out xlen} {r : Refusal} : ofWidth o = .refused r ↔ o = .refused r := by
  cases o <;> simp [ofWidth]

/-- What a part of a step leaves has the width it started with. -/
theorem ofWidth_next {o : Out xlen} {u : State} (h : ofWidth o = .next u) :
    ∃ t, o = .next t ∧ u = { xlen := xlen, core := t } := by
  cases o with
  | next t => exact ⟨t, rfl, by cases h; rfl⟩
  | fault f => cases h
  | refused r => cases h

/-- No instruction changes the width. -/
theorem exec_width {i : Instr} {s : CoreState xlen} {u : State} (h : exec i { xlen := xlen, core := s } = .next u) :
    ∃ t : CoreState xlen, u = { xlen := xlen, core := t } := by
  cases i <;> exact (ofWidth_next h).imp fun _ ht => ht.2

/-! ### The cycle and the step -/

theorem nextStage_ran_next {s : CoreState xlen} {t : State} {g : {n : Nat} → CoreState n → Result} (h : g s = .next t) :
    nextStage (.ran { xlen := xlen, core := s }) g = .ran t := by
  simp only [nextStage, h]

theorem nextStage_ran_fault {s : CoreState xlen} {f : Fault} {g : {n : Nat} → CoreState n → Result}
    (h : g s = .fault f) :
    nextStage (.ran { xlen := xlen, core := s }) g = .raised f { xlen := xlen, core := s } := by
  simp only [nextStage, h]

@[simp] theorem nextStage_raised (f : Fault) (s : State) (g : {n : Nat} → CoreState n → Result) :
    nextStage (.raised f s) g = .raised f s := rfl

@[simp] theorem nextStage_refused (r : Refusal) (g : {n : Nat} → CoreState n → Result) :
    nextStage (.refused r) g = .refused r := rfl

/-- A stage that ran came after stages that ran. -/
theorem nextStage_eq_ran {c : CycleResult} {g : {n : Nat} → CoreState n → Result} {t : State}
    (h : nextStage c g = .ran t) : ∃ s : State, c = .ran s ∧ g s.core = .next t := by
  cases c with
  | ran s =>
    refine ⟨s, rfl, ?_⟩
    unfold nextStage at h
    simp only at h
    split at h
    · rename_i s' hs
      cases h
      exact hs
    · cases h
    · cases h
  | raised f s => cases h
  | refused r => cases h

/-- A raise came from an earlier stage, or from this one with the state it was given. -/
theorem nextStage_eq_raised {c : CycleResult} {g : {n : Nat} → CoreState n → Result} {f : Fault} {t : State}
    (h : nextStage c g = .raised f t) : c = .raised f t ∨ (c = .ran t ∧ g t.core = .fault f) := by
  cases c with
  | ran s =>
    unfold nextStage at h
    simp only at h
    split at h
    · cases h
    · rename_i f' hs
      cases h
      exact .inr ⟨rfl, hs⟩
    · cases h
  | raised f' s => exact .inl h
  | refused r => cases h

/-- No stage function changes the width. -/
theorem writeBackStage_width {s : CoreState xlen} {u : State} (h : writeBackStage s = .next u) :
    ∃ t : CoreState xlen, u = { xlen := xlen, core := t } := by
  unfold writeBackStage at h
  split at h
  · exact exec_width h
  · exact ⟨_, by simpa using h.symm⟩

theorem memoryStage_width {s : CoreState xlen} {u : State} (h : memoryStage s = .next u) :
    ∃ t : CoreState xlen, u = { xlen := xlen, core := t } := by
  unfold memoryStage at h
  split at h
  · exact exec_width h
  · exact ⟨_, by simpa using h.symm⟩

theorem executeStage_width {s : CoreState xlen} {u : State} (h : executeStage s = .next u) :
    ∃ t : CoreState xlen, u = { xlen := xlen, core := t } := by
  unfold executeStage at h
  split at h
  · exact exec_width h
  · exact ⟨_, by simpa using h.symm⟩

theorem decodeStage_width {s : CoreState xlen} {u : State} (h : decodeStage s = .next u) :
    ∃ t : CoreState xlen, u = { xlen := xlen, core := t } := by
  unfold decodeStage at h
  split at h
  · exact exec_width h
  · exact ⟨_, by simpa using h.symm⟩

theorem fetchStage_width {s : CoreState xlen} {u : State} (h : fetchStage s = .next u) :
    ∃ t : CoreState xlen, u = { xlen := xlen, core := t } := by
  unfold fetchStage at h
  split at h
  · split at h
    · exact exec_width h
    · cases h
    · exact ⟨_, by simpa using h.symm⟩
  · exact ⟨_, by simpa using h.symm⟩

/-- The five stages ran: each took the state the one before it left, at the same width. -/
theorem runStages_eq_ran {s : CoreState xlen} {u : State} (h : runStages s = .ran u) :
    ∃ s₁ s₂ s₃ s₄ t : CoreState xlen, writeBackStage s = .next { xlen := xlen, core := s₁ } ∧
      memoryStage s₁ = .next { xlen := xlen, core := s₂ } ∧ executeStage s₂ = .next { xlen := xlen, core := s₃ } ∧
      decodeStage s₃ = .next { xlen := xlen, core := s₄ } ∧ fetchStage s₄ = .next { xlen := xlen, core := t } ∧
      u = { xlen := xlen, core := t } := by
  obtain ⟨s₄, h₄, hf⟩ := nextStage_eq_ran h
  obtain ⟨s₃, h₃, hd⟩ := nextStage_eq_ran h₄
  obtain ⟨s₂, h₂, he⟩ := nextStage_eq_ran h₃
  obtain ⟨s₁, h₁, hm⟩ := nextStage_eq_ran h₂
  obtain ⟨s₀, h₀, hw⟩ := nextStage_eq_ran h₁
  cases h₀
  obtain ⟨t₁, rfl⟩ := writeBackStage_width hw
  obtain ⟨t₂, rfl⟩ := memoryStage_width hm
  obtain ⟨t₃, rfl⟩ := executeStage_width he
  obtain ⟨t₄, rfl⟩ := decodeStage_width hd
  obtain ⟨t₅, rfl⟩ := fetchStage_width hf
  exact ⟨t₁, t₂, t₃, t₄, t₅, hw, hm, he, hd, hf, rfl⟩

/-- Everything a step that answers can have done. -/
theorem step_cases {s : CoreState xlen} {u : State} (h : step { xlen := xlen, core := s } = .next u) :
    (s.status ≠ .running ∧ u = { xlen := xlen, core := s }) ∨
    (s.status = .running ∧ isDone (hostAction s) = true ∧
      u = { xlen := xlen, core := (hostAction s).setStatus .done }) ∨
    (s.status = .running ∧ isDone (hostAction s) = false ∧ isCapped (hostAction s) = true ∧
      u = { xlen := xlen, core := (hostAction s).setStatus .capped }) ∨
    (s.status = .running ∧ isDone (hostAction s) = false ∧ isCapped (hostAction s) = false ∧
      interruptPending (hostAction s) = true ∧ ofWidth (serviceCycle (hostAction s)) = .next u) ∨
    (s.status = .running ∧ isDone (hostAction s) = false ∧ isCapped (hostAction s) = false ∧
      interruptPending (hostAction s) = false ∧ endCycle (runStages (hostAction s)) = .next u) := by
  unfold step tick at h
  dsimp only at h
  split at h
  · rename_i hs
    unfold loopBody at h
    split at h
    · exact .inr (.inl ⟨hs, ‹_›, by simpa using h.symm⟩)
    · rename_i hd
      split at h
      · exact .inr (.inr (.inl ⟨hs, by simpa using hd, ‹_›, by simpa using h.symm⟩))
      · rename_i hc
        unfold cycle at h
        split at h
        · exact .inr (.inr (.inr (.inl ⟨hs, by simpa using hd, by simpa using hc, ‹_›, h⟩)))
        · rename_i hp
          exact .inr (.inr (.inr (.inr ⟨hs, by simpa using hd, by simpa using hc, by simpa using hp, h⟩)))
  all_goals
    rename_i hs
    refine .inl ⟨?_, by simpa using h.symm⟩
    rw [hs]
    exact fun e => nomatch e

/-- The host's action between cycles changes the device alone. -/
theorem hostAction_frame (s : CoreState xlen) : hostAction s = { s with dev := (hostAction s).dev } := by
  unfold hostAction
  split <;> rfl

end Sys2Proof.Machine
end

