-- ==== Sys2Proof/Laws/Decode.lean ====
section
/-! SUPPORT. The record word's fields and its packing (30_encoding.md R103). -/

namespace Sys2Proof

variable {xlen : Nat}

/-- Bit `i` of a packed word, read off its fields. -/
theorem packWord_getLsbD (opc : BitVec 4) (k0 k1 k2 : BitVec 2) (v0 v1 v2 : Word xlen) (i : Nat) :
    (packWord opc k0 k1 k2 v0 v1 v2).getLsbD i =
      if i < 4 then opc.getLsbD i else if i < 6 then k0.getLsbD (i - 4) else if i < 8 then k1.getLsbD (i - 6)
      else if i < 10 then k2.getLsbD (i - 8) else if i < 10 + xlen then v0.getLsbD (i - 10)
      else if i < 10 + 2 * xlen then v1.getLsbD (i - (10 + xlen)) else v2.getLsbD (i - (10 + 2 * xlen)) := by
  simp only [packWord, BitVec.getLsbD_cast, BitVec.getLsbD_append]
  split_ifs <;> first | omega | rfl | (congr 1; omega)

theorem opcField_packWord (opc : BitVec 4) (k0 k1 k2 : BitVec 2) (v0 v1 v2 : Word xlen) :
    opcField (packWord opc k0 k1 k2 v0 v1 v2) = opc := by
  apply BitVec.eq_of_getLsbD_eq
  intro i hi
  simp only [opcField, BitVec.getLsbD_extractLsb', packWord_getLsbD]
  simp [hi]

theorem kind0_packWord (opc : BitVec 4) (k0 k1 k2 : BitVec 2) (v0 v1 v2 : Word xlen) :
    kind0 (packWord opc k0 k1 k2 v0 v1 v2) = k0 := by
  apply BitVec.eq_of_getLsbD_eq
  intro i hi
  simp only [kind0, BitVec.getLsbD_extractLsb', packWord_getLsbD]
  rw [if_neg (by omega), if_pos (by omega)]
  simp [hi]

theorem kind1_packWord (opc : BitVec 4) (k0 k1 k2 : BitVec 2) (v0 v1 v2 : Word xlen) :
    kind1 (packWord opc k0 k1 k2 v0 v1 v2) = k1 := by
  apply BitVec.eq_of_getLsbD_eq
  intro i hi
  simp only [kind1, BitVec.getLsbD_extractLsb', packWord_getLsbD]
  rw [if_neg (by omega), if_neg (by omega), if_pos (by omega)]
  simp [hi]

theorem kind2_packWord (opc : BitVec 4) (k0 k1 k2 : BitVec 2) (v0 v1 v2 : Word xlen) :
    kind2 (packWord opc k0 k1 k2 v0 v1 v2) = k2 := by
  apply BitVec.eq_of_getLsbD_eq
  intro i hi
  simp only [kind2, BitVec.getLsbD_extractLsb', packWord_getLsbD]
  rw [if_neg (by omega), if_neg (by omega), if_neg (by omega), if_pos (by omega)]
  simp [hi]

theorem value0_packWord (opc : BitVec 4) (k0 k1 k2 : BitVec 2) (v0 v1 v2 : Word xlen) :
    value0 (packWord opc k0 k1 k2 v0 v1 v2) = v0 := by
  apply BitVec.eq_of_getLsbD_eq
  intro i hi
  simp only [value0, BitVec.getLsbD_extractLsb', packWord_getLsbD]
  rw [if_neg (by omega), if_neg (by omega), if_neg (by omega), if_neg (by omega), if_pos (by omega)]
  simp [hi]

theorem value1_packWord (opc : BitVec 4) (k0 k1 k2 : BitVec 2) (v0 v1 v2 : Word xlen) :
    value1 (packWord opc k0 k1 k2 v0 v1 v2) = v1 := by
  apply BitVec.eq_of_getLsbD_eq
  intro i hi
  simp only [value1, BitVec.getLsbD_extractLsb', packWord_getLsbD]
  rw [if_neg (by omega), if_neg (by omega), if_neg (by omega), if_neg (by omega), if_neg (by omega), if_pos (by omega)]
  simp [hi]

theorem value2_packWord (opc : BitVec 4) (k0 k1 k2 : BitVec 2) (v0 v1 v2 : Word xlen) :
    value2 (packWord opc k0 k1 k2 v0 v1 v2) = v2 := by
  apply BitVec.eq_of_getLsbD_eq
  intro i hi
  simp only [value2, BitVec.getLsbD_extractLsb', packWord_getLsbD]
  rw [if_neg (by omega), if_neg (by omega), if_neg (by omega), if_neg (by omega), if_neg (by omega), if_neg (by omega)]
  simp [hi]

/-- A record word is the packing of its fields. -/
theorem packWord_fields (w : RecordWord xlen) :
    packWord (opcField w) (kind0 w) (kind1 w) (kind2 w) (value0 w) (value1 w) (value2 w) = w := by
  apply BitVec.eq_of_getLsbD_eq
  intro i hi
  have hi' : i < 10 + 3 * xlen := hi
  simp only [packWord_getLsbD, opcField, kind0, kind1, kind2, value0, value1, value2, BitVec.getLsbD_extractLsb']
  split_ifs <;> rw [Bool.and_eq_right_iff_imp.mpr (fun _ => by simp; omega)] <;> congr 1 <;> omega

/-! ### Slots and operands -/

@[simp] theorem slotOf_empty : slotOf kindNone (0 : Word xlen) = .empty := by simp [slotOf]

@[simp] theorem slotOf_reg (v : Word xlen) : slotOf kindReg v = .operand (.reg (ux v)) := by
  simp [slotOf, kindReg, kindNone]

@[simp] theorem slotOf_imm (v : Word xlen) : slotOf kindImm v = .operand (.imm (sx v)) := by
  simp [slotOf, kindImm, kindReg, kindNone]

/-- A word is the word of its signed value. -/
@[simp] theorem word_sx (v : Word xlen) : word xlen (sx v) = v := BitVec.ofInt_toInt

theorem inSignedRange_iff (v : Int) : inSignedRange xlen v = true ↔ -(2 ^ (xlen - 1)) ≤ v ∧ v < 2 ^ (xlen - 1) := by
  simp [inSignedRange]

/-- An integer in range is the signed value of its word. -/
theorem sx_word (hx : 1 ≤ xlen) {v : Int} (h : inSignedRange xlen v = true) : sx (word xlen v) = v := by
  obtain ⟨h₁, h₂⟩ := (inSignedRange_iff v).mp h
  have h₃ : (2 : Int) ^ xlen = 2 * 2 ^ (xlen - 1) := by
    rw [← Int.pow_succ', Nat.sub_add_cancel hx]
  rw [sx, word, BitVec.toInt_ofInt]
  apply Int.bmod_eq_of_le <;> push_cast <;> omega

/-- A word's signed value is in range. -/
theorem inSignedRange_sx (v : Word xlen) : inSignedRange xlen (sx v) = true :=
  (inSignedRange_iff _).mpr ⟨BitVec.le_toInt v, BitVec.toInt_lt⟩

/-- A register index that fits a slot value is read back. -/
theorem ux_slotValue_reg {k : Nat} (h : k < 2 ^ xlen) : ux (Operand.slotValue xlen (.reg k)) = k := by
  simp only [Operand.slotValue, ux, BitVec.toNat_ofNat]
  exact Nat.mod_eq_of_lt h

end Sys2Proof
end

