-- ==== Sys2Proof/Laws/Stages.lean ====
section
/-! SUPPORT. What each stage function of a cycle can do, said once over all fourteen instructions. -/

namespace Sys2Proof.Machine

variable {xlen : Nat}

/-! ### Resolution sees the latches and the registers alone -/

@[simp] theorem resolve_setSignals (o : Operand) (s : CoreState xlen) (g : Signals) : resolve o (s.setSignals g) = resolve o s := by
  cases o <;> rfl

@[simp] theorem resolveAll_setSignals (os : List Operand) (s : CoreState xlen) (g : Signals) :
    resolveAll os (s.setSignals g) = resolveAll os s := by
  induction os with
  | nil => rfl
  | cons o os ih => simp only [resolveAll, resolve_setSignals, ih]

/-- There is one value for every source. -/
theorem resolveAll_length {s : CoreState xlen} : ∀ {os : List Operand} {vs : List (Word xlen)}, resolveAll os s = .values vs →
    vs.length = os.length
  | [], vs, h => by cases h; rfl
  | o :: os, vs, h => by
    unfold resolveAll at h
    split at h
    · split at h
      · rename_i hs
        cases h
        simp [resolveAll_length hs]
      · cases h
      · cases h
    · cases h
    · cases h

/-- Only the load-use hazard stalls: the EX latch holds a LOAD. -/
theorem resolve_stall {o : Operand} {s : CoreState xlen} (h : resolve o s = .stall) :
    ∃ e, s.exL = some e ∧ e.instr.opcode = .load := by
  cases o with
  | imm v => cases h
  | reg k =>
    simp only [resolve, resolveReg] at h
    split at h
    · unfold forwarded at h
      split at h <;> cases h
    · unfold resolveFromMEM at h
      split at h
      · unfold forwarded at h
        split at h <;> cases h
      · unfold resolveFromEX at h
        split at h
        · rename_i e he
          split at h
          · rename_i hl
            unfold writerOf at he
            split at he
            · split at he
              · rename_i e' hx _
                cases he
                exact ⟨e, hx, by simpa [isLoadEntry] using hl⟩
              · cases he
            · cases he
          · unfold forwarded at h
            split at h <;> cases h
        · unfold readRegFile at h
          split at h <;> cases h

theorem resolveAll_stall {s : CoreState xlen} : ∀ {os : List Operand}, resolveAll os s = .stall →
    ∃ e, s.exL = some e ∧ e.instr.opcode = .load
  | [], h => by cases h
  | o :: os, h => by
    unfold resolveAll at h
    split at h
    · split at h
      · cases h
      · exact resolveAll_stall ‹_›
      · cases h
    · exact resolve_stall ‹_›
    · cases h

/-! ### Write-back -/

/-- What a Write-back that answers did. -/
theorem writeBackStage_next {s t : CoreState xlen} (h : writeBackStage s = .next { xlen := xlen, core := t }) :
    (s.memL = none ∧ t = s.setWB none) ∨
    (∃ m k v, s.memL = some m ∧ destOf m.instr ≠ none ∧ m.dest = some k ∧ m.result = some v ∧ k < s.regs.length ∧
      t = ((s.atStage .writeBack).setWB (some m)).setRegs (s.regs.set k v)) ∨
    (∃ m, s.memL = some m ∧ destOf m.instr = none ∧ t = (s.atStage .writeBack).setWB (some m)) := by
  unfold writeBackStage at h
  split at h
  · rename_i m hm
    have hmem : (s.atStage .writeBack).memL = some m := hm
    obtain ⟨idx, i, dest, result, sval⟩ := m
    cases i
    all_goals first
      | (rw [exec.eq_def] at h
         simp only at h
         first
          | (simp only [execAdd, execSub, execMul, execAnd, execShl, execMov, execLoad, atWidth, ofWidth_eq_next] at h
             rw [atStageOf_writeBack rfl hmem] at h
             obtain ⟨k, v, hk, hv, hl, rfl⟩ := commit_next h
             exact .inr (.inl ⟨_, k, v, hm, by simp [destOf], hk, hv, hl, rfl⟩))
          | (simp only [execNop, execStore, execCmp, execJmp, execJz, execJnz, execJe, atWidth, ofWidth_eq_next] at h
             rw [atStageOf_writeBack rfl hmem] at h
             cases h
             exact .inr (.inr ⟨_, hm, rfl, rfl⟩)))
  · cases h
    exact .inl ⟨‹_›, rfl⟩

/-! ### Memory-access -/

/-- What a Memory-access that answers did. -/
theorem memoryStage_next {s t : CoreState xlen} (h : memoryStage s = .next { xlen := xlen, core := t }) :
    (s.exL = none ∧ t = s.setMEM none) ∨
    (∃ e w, s.exL = some e ∧ e.instr.opcode = .load ∧ e.result = some w ∧ addressOk s (sx w) = true ∧
      t = (memReadState (s.atStage .memoryAccess) (sx w).toNat).setMEM
        (some { e with result := some (memReadWord s (sx w).toNat) })) ∨
    (∃ e w v, s.exL = some e ∧ e.instr.opcode = .store ∧ e.result = some w ∧ e.sval = some v ∧
      addressOk s (sx w) = true ∧ t = (memWrite (s.atStage .memoryAccess) (sx w).toNat v).setMEM (some e)) ∨
    (∃ e, s.exL = some e ∧ e.instr.opcode ≠ .load ∧ e.instr.opcode ≠ .store ∧
      t = (s.atStage .memoryAccess).setMEM (some e)) := by
  unfold memoryStage at h
  split at h
  · rename_i e he
    have hex : (s.atStage .memoryAccess).exL = some e := he
    obtain ⟨idx, i, dest, result, sval⟩ := e
    cases i
    case load rd a =>
      simp only [exec, atWidth, execLoad, ofWidth_eq_next] at h
      rw [atStageOf_memory rfl hex] at h
      obtain ⟨w, hw, ha, rfl⟩ := accessLoad_next h
      exact .inr (.inl ⟨_, w, he, rfl, hw, ha, rfl⟩)
    case store rs a =>
      simp only [exec, atWidth, execStore, ofWidth_eq_next] at h
      rw [atStageOf_memory rfl hex] at h
      obtain ⟨w, v, hw, hv, ha, rfl⟩ := accessStore_next h
      exact .inr (.inr (.inl ⟨_, w, v, he, rfl, hw, hv, ha, rfl⟩))
    all_goals
      simp only [exec, atWidth, execAdd, execSub, execMul, execAnd, execShl, execMov, execNop, execCmp, execJmp, execJz,
        execJnz, execJe, ofWidth_eq_next] at h
      rw [atStageOf_memory rfl hex] at h
      cases h
      exact .inr (.inr (.inr ⟨_, he, by simp [Instr.opcode], by simp [Instr.opcode], rfl⟩))
  · cases h
    exact .inl ⟨‹_›, rfl⟩

/-- A Memory-access raises `AddressOutOfRange` for a LOAD or a STORE, or finds an entry no run makes. -/
theorem memoryStage_fault {s : CoreState xlen} {f : Fault} (h : memoryStage s = .fault f) :
    ∃ e, s.exL = some e ∧
      ((∃ w, e.result = some w ∧ addressOk s (sx w) = false ∧ f = .addressOutOfRange e.idx (sx w) ∧
          (e.instr.opcode = .load ∨ e.instr.opcode = .store)) ∨
       (f = .latchMismatch ∧ (e.result = none ∨ e.instr.opcode = .store ∧ e.sval = none))) := by
  unfold memoryStage at h
  split at h
  · rename_i e he
    have hex : (s.atStage .memoryAccess).exL = some e := he
    refine ⟨e, he, ?_⟩
    obtain ⟨idx, i, dest, result, sval⟩ := e
    cases i
    case load rd a =>
      simp only [exec, atWidth, execLoad, ofWidth_eq_fault] at h
      rw [atStageOf_memory rfl hex] at h
      dsimp only [accessLoad] at h
      split at h
      · rename_i w
        split at h
        · cases h
        · rename_i hn
          cases h
          exact .inl ⟨w, rfl, Bool.eq_false_iff.mpr hn, rfl, .inl rfl⟩
      · cases h
        exact .inr ⟨rfl, .inl rfl⟩
    case store rs a =>
      simp only [exec, atWidth, execStore, ofWidth_eq_fault] at h
      rw [atStageOf_memory rfl hex] at h
      dsimp only [accessStore] at h
      split at h
      · rename_i w v
        split at h
        · cases h
        · rename_i hn
          cases h
          exact .inl ⟨w, rfl, Bool.eq_false_iff.mpr hn, rfl, .inr rfl⟩
      · rename_i hno
        cases h
        refine .inr ⟨rfl, ?_⟩
        cases result with
        | none => exact .inl rfl
        | some w =>
          cases sval with
          | none => exact .inr ⟨rfl, rfl⟩
          | some v => exact absurd rfl (hno w v rfl)
    all_goals
      simp only [exec, atWidth, execAdd, execSub, execMul, execAnd, execShl, execMov, execNop, execCmp, execJmp, execJz,
        execJnz, execJe, ofWidth_eq_fault] at h
      rw [atStageOf_memory rfl hex] at h
      cases h
  · cases h

/-! ### Execute -/

/-- What an Execute that answers did: it wrote the EX latch, and Z only for an instruction that writes Z. -/
theorem executeStage_next {s t : CoreState xlen} (h : executeStage s = .next { xlen := xlen, core := t }) :
    (s.idL = none ∧ t = s.setEX none) ∨
    (∃ d result sval z, s.idL = some d ∧ t = ((s.atStage .execute).setEX
        (some { idx := d.idx, instr := d.instr, dest := d.dest, result := result, sval := sval })).setZ z ∧
      (writesZ d.instr = false → z = s.z) ∧ Option.isSome result = carriesResult d.instr ∧
      Option.isSome sval = isStore d.instr ∧ isJmp d.instr = false) := by
  unfold executeStage at h
  split at h
  · rename_i d hd
    have hid : (s.atStage .execute).idL = some d := hd
    right
    obtain ⟨idx, i, dest, srcs, vals, target, hazard⟩ := d
    cases i
    all_goals
      simp only [exec, atWidth, execAdd, execSub, execMul, execAnd, execShl, execMov, execLoad, execStore, execNop, execCmp,
        execJmp, execJz, execJnz, execJe, ofWidth_eq_next] at h
      rw [atStageOf_execute rfl hid] at h
      simp only [executeALU, executeShift, executePassValue, executeStore, executeCompare, executeNothing,
        executeNever] at h
      repeat' split at h
      all_goals first
        | cases h; done
        | (cases h; exact ⟨_, _, _, _, hd, rfl, by simp [writesZ, CoreState.atStage, CoreState.setSignals], rfl, rfl, rfl⟩)
  · cases h
    exact .inl ⟨‹_›, rfl⟩

/-- An Execute raises `NegativeShift` for SHL, or finds an entry no run makes. -/
theorem executeStage_fault {s : CoreState xlen} {f : Fault} (h : executeStage s = .fault f) :
    ∃ d, s.idL = some d ∧
      ((∃ va vb, d.vals = [va, vb] ∧ d.instr.opcode = .shl ∧ sx vb < 0 ∧ f = .negativeShift d.idx (sx vb)) ∨
       (f = .latchMismatch ∧ (d.vals.length ≠ (srcsOf d.instr).length ∨ isJmp d.instr = true))) := by
  unfold executeStage at h
  split at h
  · rename_i d hd
    have hid : (s.atStage .execute).idL = some d := hd
    refine ⟨d, hd, ?_⟩
    obtain ⟨idx, i, dest, srcs, vals, target, hazard⟩ := d
    cases i
    case shl rd a b =>
      simp only [exec, atWidth, execShl, ofWidth_eq_fault] at h
      rw [atStageOf_execute rfl hid] at h
      simp only [executeShift] at h
      split at h
      · rename_i va vb
        split at h
        · cases h
          exact .inl ⟨va, vb, rfl, rfl, ‹_›, rfl⟩
        · cases h
      · rename_i hno
        cases h
        refine .inr ⟨rfl, .inl ?_⟩
        intro hl
        match vals, hl with
        | [va, vb], _ => exact hno va vb rfl
    all_goals
      simp only [exec, atWidth, execAdd, execSub, execMul, execAnd, execMov, execLoad, execStore, execNop, execCmp,
        execJmp, execJz, execJnz, execJe, ofWidth_eq_fault] at h
      rw [atStageOf_execute rfl hid] at h
      simp only [executeALU, executePassValue, executeStore, executeCompare, executeNothing, executeNever] at h
      first
        | (cases h; done)
        | (cases h; exact .inr ⟨rfl, .inr rfl⟩)
        | (split at h
           · cases h
           · rename_i hno
             cases h
             refine .inr ⟨rfl, .inl ?_⟩
             intro hl
             match vals, hl with
             | [va, vb], _ => exact hno va vb rfl)
        | (split at h
           · cases h
           · rename_i hno
             cases h
             refine .inr ⟨rfl, .inl ?_⟩
             intro hl
             match vals, hl with
             | [va], _ => exact hno va rfl)
  · cases h

/-! ### Decode -/

/-- What a Decode that answers did. -/
theorem decodeStage_next {s t : CoreState xlen} (h : decodeStage s = .next { xlen := xlen, core := t }) :
    (s.ifL = none ∧ t = (s.setFetchEn true).setID none) ∨
    (∃ f vs, s.ifL = some f ∧ targetOf f.instr = none ∧ resolveAll (srcsOf f.instr) s = .values vs ∧
      t = ((s.setFetchEn true).atStage .decode).setID
        (some (decodedEntry f.idx f.instr (destOf f.instr) (srcsOf f.instr) vs none))) ∨
    (∃ f, s.ifL = some f ∧ targetOf f.instr = none ∧ resolveAll (srcsOf f.instr) s = .stall ∧
      t = stall ((s.setFetchEn true).atStage .decode)) ∨
    (∃ f w, s.ifL = some f ∧ targetOf f.instr = some w ∧ t = flushTo (word xlen w) ((s.setFetchEn true).atStage .decode)) ∨
    (∃ f w, s.ifL = some f ∧ targetOf f.instr = some w ∧ isJmp f.instr = false ∧
      t = ((s.setFetchEn true).atStage .decode).setID (some (decodedEntry f.idx f.instr none [] [] (some (word xlen w))))) := by
  unfold decodeStage at h
  split at h
  · rename_i f hf
    have hif : ((s.setFetchEn true).atStage .decode).ifL = some f := hf
    right
    obtain ⟨idx, i⟩ := f
    cases i
    case jmp | jz | jnz | je =>
      simp only [exec, atWidth, execJmp, execJz, execJnz, execJe, ofWidth_eq_next] at h
      rw [atStageOf_decode rfl hif] at h
      dsimp only at h
      rcases resolveBranch_next h with ⟨ht, rfl⟩ | ⟨ht, rfl⟩
      · exact .inr (.inr (.inl ⟨_, _, hf, rfl, rfl⟩))
      · first
          | cases ht
          | exact .inr (.inr (.inr ⟨_, _, hf, rfl, rfl, rfl⟩))
    all_goals
      simp only [exec, atWidth, execAdd, execSub, execMul, execAnd, execShl, execMov, execLoad, execStore, execNop, execCmp, ofWidth_eq_next] at h
      rw [atStageOf_decode rfl hif] at h
      dsimp only at h
      rcases decodeSources_next h with ⟨vs, hv, rfl⟩ | ⟨hv, rfl⟩
      · exact .inl ⟨_, vs, hf, rfl, by simpa [srcsOf, CoreState.atStage, CoreState.setFetchEn] using hv, rfl⟩
      · exact .inr (.inl ⟨_, hf, rfl, by simpa [srcsOf, CoreState.atStage, CoreState.setFetchEn] using hv, rfl⟩)
  · cases h
    exact .inl ⟨‹_›, rfl⟩

/-! ### Fetch -/

/-- What a Fetch that answers did. -/
theorem fetchStage_next {s t : CoreState xlen} (h : fetchStage s = .next { xlen := xlen, core := t }) :
    (s.signals.fetchEn = false ∧ t = s) ∨
    (s.signals.fetchEn = true ∧ recordAtPC s = none ∧ t = s.setIF none) ∨
    (∃ i, s.signals.fetchEn = true ∧ recordAtPC s = some (.ok i) ∧ t = fetchInstr i (s.atStage .fetch)) := by
  unfold fetchStage at h
  split at h
  · rename_i he
    split at h
    · rename_i i hi
      refine .inr (.inr ⟨i, he, hi, ?_⟩)
      cases i
      all_goals
        simp only [exec, atWidth, execAdd, execSub, execMul, execAnd, execShl, execMov, execLoad, execStore, execNop, execCmp,
          execJmp, execJz, execJnz, execJe, ofWidth_eq_next] at h
        rw [atStageOf_fetch rfl] at h
        cases h
        rfl
    · cases h
    · cases h
      exact .inr (.inl ⟨he, ‹_›, rfl⟩)
  · rename_i he
    cases h
    exact .inl ⟨Bool.eq_false_iff.mpr he, rfl⟩

end Sys2Proof.Machine
end

