-- ==== Sys2Proof/Laws/Steps.lean ====
section
/-! SUPPORT. What a step can do, said once: the host's action, the ways a cycle can end, and the six shapes of a step that
answers. -/

namespace Sys2Proof.Machine

variable {xlen : Nat}

/-! ### The host's action changes the device alone -/

@[simp] theorem hostAction_params (s : CoreState xlen) : (hostAction s).params = s.params := by rw [hostAction_frame]
@[simp] theorem hostAction_prog (s : CoreState xlen) : (hostAction s).prog = s.prog := by rw [hostAction_frame]
@[simp] theorem hostAction_regs (s : CoreState xlen) : (hostAction s).regs = s.regs := by rw [hostAction_frame]
@[simp] theorem hostAction_z (s : CoreState xlen) : (hostAction s).z = s.z := by rw [hostAction_frame]
@[simp] theorem hostAction_pc (s : CoreState xlen) : (hostAction s).pc = s.pc := by rw [hostAction_frame]
@[simp] theorem hostAction_ifL (s : CoreState xlen) : (hostAction s).ifL = s.ifL := by rw [hostAction_frame]
@[simp] theorem hostAction_idL (s : CoreState xlen) : (hostAction s).idL = s.idL := by rw [hostAction_frame]
@[simp] theorem hostAction_exL (s : CoreState xlen) : (hostAction s).exL = s.exL := by rw [hostAction_frame]
@[simp] theorem hostAction_memL (s : CoreState xlen) : (hostAction s).memL = s.memL := by rw [hostAction_frame]
@[simp] theorem hostAction_wbL (s : CoreState xlen) : (hostAction s).wbL = s.wbL := by rw [hostAction_frame]
@[simp] theorem hostAction_cache (s : CoreState xlen) : (hostAction s).cache = s.cache := by rw [hostAction_frame]
@[simp] theorem hostAction_main (s : CoreState xlen) : (hostAction s).main = s.main := by rw [hostAction_frame]
@[simp] theorem hostAction_istate (s : CoreState xlen) : (hostAction s).istate = s.istate := by rw [hostAction_frame]
@[simp] theorem hostAction_metrics (s : CoreState xlen) : (hostAction s).metrics = s.metrics := by rw [hostAction_frame]
@[simp] theorem hostAction_triggers (s : CoreState xlen) : (hostAction s).triggers = s.triggers := by rw [hostAction_frame]
@[simp] theorem hostAction_maxCycles (s : CoreState xlen) : (hostAction s).maxCycles = s.maxCycles := by rw [hostAction_frame]
@[simp] theorem hostAction_status (s : CoreState xlen) : (hostAction s).status = s.status := by rw [hostAction_frame]
@[simp] theorem hostAction_signals (s : CoreState xlen) : (hostAction s).signals = s.signals := by rw [hostAction_frame]

/-! ### The stages raise no fault of the spec's but the two of Memory-access and Execute -/

/-- A resolution breaks only with a fault of the model's own. -/
theorem resolveAll_broken {s : CoreState xlen} {f : Fault} : ∀ {os : List Operand}, resolveAll os s = .broken f →
    f = .latchMismatch ∨ ∃ k, f = .noSuchRegister k
  | [], h => by cases h
  | o :: os, h => by
    unfold resolveAll at h
    split at h
    · split at h
      · cases h
      · cases h
      · rename_i hb
        cases h
        exact resolveAll_broken hb
    · cases h
    · rename_i hb
      cases h
      cases o with
      | imm v => cases hb
      | reg k =>
        simp only [resolve, resolveReg, resolveFromMEM, resolveFromEX, forwarded, readRegFile] at hb
        repeat' split at hb
        all_goals first
          | (cases hb; done)
          | (cases hb; simp)

/-- Write-back raises no fault of the spec's. -/
theorem writeBackStage_no_record {s : CoreState xlen} {f : Fault} (h : writeBackStage s = .fault f) :
    dynamicRecord f s = none := by
  unfold writeBackStage at h
  split at h
  · rename_i m hm
    have hmem : (s.atStage .writeBack).memL = some m := hm
    obtain ⟨idx, i, dest, result, sval⟩ := m
    cases i
    all_goals
      simp only [exec, atWidth, execAdd, execSub, execMul, execAnd, execShl, execMov, execLoad, execNop, execStore, execCmp,
        execJmp, execJz, execJnz, execJe, ofWidth_eq_fault] at h
      rw [atStageOf_writeBack rfl hmem] at h
      dsimp only [commit, retire] at h
      repeat' split at h
      all_goals first
        | (cases h; done)
        | (unfold writeReg at h; split at h <;> cases h; rfl)
        | (cases h; rfl)
  · cases h

/-- Decode raises no fault of the spec's (40_pipeline.md R135). -/
theorem decodeStage_no_record {s : CoreState xlen} {f : Fault} (h : decodeStage s = .fault f) : dynamicRecord f s = none := by
  unfold decodeStage at h
  split at h
  · rename_i g hg
    have hif : ((s.setFetchEn true).atStage .decode).ifL = some g := hg
    obtain ⟨idx, i⟩ := g
    cases i
    all_goals
      simp only [exec, atWidth, execAdd, execSub, execMul, execAnd, execShl, execMov, execLoad, execNop, execStore, execCmp,
        execJmp, execJz, execJnz, execJe, ofWidth_eq_fault] at h
      rw [atStageOf_decode rfl hif] at h
      dsimp only [decodeSources, resolveBranch] at h
      split at h
    all_goals first
      | (cases h; done)
      | (rename_i hb
         cases h
         rcases resolveAll_broken hb with rfl | ⟨k, rfl⟩ <;> rfl)
  · cases h

/-- Fetch raises no fault of the spec's. -/
theorem fetchStage_no_record {s : CoreState xlen} {f : Fault} (h : fetchStage s = .fault f) : dynamicRecord f s = none := by
  unfold fetchStage at h
  split at h
  · split at h
    · rename_i i _
      cases i <;> simp [exec, atWidth, execAdd, execSub, execMul, execAnd, execShl, execMov, execLoad, execNop, execStore,
        execCmp, execJmp, execJz, execJnz, execJe, atStageOf, CoreState.atStage, CoreState.setSignals] at h
    · cases h
      rfl
    · cases h
  · cases h

/-- A fault of the spec's ends the stages in Memory-access or in Execute, with the state the stages before it left. -/
theorem runStages_raised {s : CoreState xlen} {v : State} {f : Fault} {r : FaultRecord} (h : runStages s = .raised f v)
    (hd : dynamicRecord f v.core = some r) :
    ∃ u : CoreState xlen, v = { xlen := xlen, core := u } ∧
      ((writeBackStage s = .next { xlen := xlen, core := u } ∧ memoryStage u = .fault f) ∨
       (∃ s₁ : CoreState xlen, writeBackStage s = .next { xlen := xlen, core := s₁ } ∧
          memoryStage s₁ = .next { xlen := xlen, core := u } ∧ executeStage u = .fault f)) := by
  rcases nextStage_eq_raised h with h | ⟨_, hf⟩
  · rcases nextStage_eq_raised h with h | ⟨_, hf⟩
    · rcases nextStage_eq_raised h with h | ⟨h, hf⟩
      · rcases nextStage_eq_raised h with h | ⟨h, hf⟩
        · rcases nextStage_eq_raised h with h | ⟨h, hf⟩
          · cases h
          · cases h
            rw [writeBackStage_no_record hf] at hd
            cases hd
        · obtain ⟨s₀, h₀, h₁⟩ := nextStage_eq_ran h
          cases h₀
          obtain ⟨u, rfl⟩ := writeBackStage_width h₁
          exact ⟨u, rfl, .inl ⟨h₁, hf⟩⟩
      · obtain ⟨s₁, h₁, h₂⟩ := nextStage_eq_ran h
        obtain ⟨s₀, h₀, h₁⟩ := nextStage_eq_ran h₁
        cases h₀
        obtain ⟨t₁, rfl⟩ := writeBackStage_width h₁
        obtain ⟨u, rfl⟩ := memoryStage_width h₂
        exact ⟨u, rfl, .inr ⟨t₁, h₁, h₂, hf⟩⟩
    · rw [decodeStage_no_record hf] at hd
      cases hd
  · rw [fetchStage_no_record hf] at hd
    cases hd

/-! ### A step -/

/-- A step that is an interrupt cycle (60_exceptions.md R275). -/
def interruptShape (s t : CoreState xlen) : Prop :=
  interruptPending (hostAction s) = true ∧ s.params.sentinelReg < s.regs.length ∧
  t = { s with
    regs := s.regs.set s.params.sentinelReg s.params.sentinelValue,
    dev := { ready := false, value := (hostAction s).dev.value },
    metrics := { s.metrics with interrupts := s.metrics.interrupts + 1, cycles := s.metrics.cycles + 1 },
    istate := { mode := .normal, savedPC := none } }

/-- A step whose five stages ran (40_pipeline.md R130). -/
def stagesShape (s t : CoreState xlen) : Prop :=
  ∃ s₁ s₂ s₃ s₄ s₅ : CoreState xlen, writeBackStage (hostAction s) = .next { xlen := xlen, core := s₁ } ∧
    memoryStage s₁ = .next { xlen := xlen, core := s₂ } ∧ executeStage s₂ = .next { xlen := xlen, core := s₃ } ∧
    decodeStage s₃ = .next { xlen := xlen, core := s₄ } ∧ fetchStage s₄ = .next { xlen := xlen, core := s₅ } ∧
    t = (countCycle s₅).setSignals Signals.rest

/-- A step ended by a raise in Memory-access (60_exceptions.md R265). -/
def memoryRaiseShape (s t : CoreState xlen) : Prop :=
  ∃ (s₁ : CoreState xlen) (f : Fault) (r : FaultRecord),
    writeBackStage (hostAction s) = .next { xlen := xlen, core := s₁ } ∧ memoryStage s₁ = .fault f ∧
    dynamicRecord f s₁ = some r ∧ t = (s₁.setStatus (.faulted r)).setSignals Signals.rest

/-- A step ended by a raise in Execute (60_exceptions.md R265). -/
def executeRaiseShape (s t : CoreState xlen) : Prop :=
  ∃ (s₁ s₂ : CoreState xlen) (f : Fault) (r : FaultRecord),
    writeBackStage (hostAction s) = .next { xlen := xlen, core := s₁ } ∧
    memoryStage s₁ = .next { xlen := xlen, core := s₂ } ∧ executeStage s₂ = .fault f ∧
    dynamicRecord f s₂ = some r ∧ t = (s₂.setStatus (.faulted r)).setSignals Signals.rest

/-- Everything a step that answers can have done, at the width it started with: nothing after the end, the natural end,
the cap, or one cycle of four shapes. -/
theorem step_shapes {s : CoreState xlen} {u : State} (h : step { xlen := xlen, core := s } = .next u) :
    ∃ t : CoreState xlen, u = { xlen := xlen, core := t } ∧
      ((s.status ≠ .running ∧ t = s) ∨
       (s.status = .running ∧ ∃ r, (r = .done ∨ r = .capped) ∧ t = (hostAction s).setStatus r) ∨
       (s.status = .running ∧ s.metrics.cycles < s.maxCycles ∧
         (interruptShape s t ∨ stagesShape s t ∨ memoryRaiseShape s t ∨ executeRaiseShape s t))) := by
  have cap : isCapped (hostAction s) = false → s.metrics.cycles < s.maxCycles := by
    intro hc
    simpa [isCapped] using hc
  rcases step_cases h with ⟨hr, ht⟩ | ⟨hr, _, ht⟩ | ⟨hr, _, _, ht⟩ | ⟨hr, _, hc, hp, hs⟩ | ⟨hr, _, hc, _, hs⟩
  · exact ⟨_, ht, .inl ⟨hr, rfl⟩⟩
  · exact ⟨_, ht, .inr (.inl ⟨hr, _, .inl rfl, rfl⟩)⟩
  · exact ⟨_, ht, .inr (.inl ⟨hr, _, .inr rfl, rfl⟩)⟩
  · obtain ⟨t, hs, ht⟩ := ofWidth_next hs
    refine ⟨t, ht, .inr (.inr ⟨hr, cap hc, .inl ⟨hp, ?_⟩⟩)⟩
    unfold serviceCycle at hs
    split at hs
    · rename_i u hu
      obtain ⟨hk, rfl⟩ := interruptCycle_next hu
      cases hs
      refine ⟨by simpa using hk, ?_⟩
      rw [hostAction_frame]
      rfl
    · cases hs
    · cases hs
  · cases hx : runStages (hostAction s) with
    | ran u =>
      obtain ⟨s₁, s₂, s₃, s₄, s₅, h₁, h₂, h₃, h₄, h₅, rfl⟩ := runStages_eq_ran hx
      rw [hx] at hs
      cases hs
      exact ⟨_, rfl, .inr (.inr ⟨hr, cap hc, .inr (.inl ⟨s₁, s₂, s₃, s₄, s₅, h₁, h₂, h₃, h₄, h₅, rfl⟩)⟩)⟩
    | raised f v =>
      rw [hx] at hs
      obtain ⟨t, he, rfl⟩ := ofWidth_next hs
      obtain ⟨r, hd, rfl⟩ := endWithFault_next he
      obtain ⟨w, rfl, ⟨h₁, hf⟩ | ⟨s₁, h₁, h₂, hf⟩⟩ := runStages_raised hx hd
      · exact ⟨_, rfl, .inr (.inr ⟨hr, cap hc, .inr (.inr (.inl ⟨w, f, r, h₁, hf, hd, rfl⟩))⟩)⟩
      · exact ⟨_, rfl, .inr (.inr ⟨hr, cap hc, .inr (.inr (.inr ⟨s₁, w, f, r, h₁, h₂, hf, hd, rfl⟩))⟩)⟩
    | refused r =>
      rw [hx] at hs
      cases hs

/-- No step changes the width. -/
theorem step_width {s : CoreState xlen} {u : State} (h : step { xlen := xlen, core := s } = .next u) :
    ∃ t : CoreState xlen, u = { xlen := xlen, core := t } :=
  (step_shapes h).imp fun _ ht => ht.1

/-- The shapes of a step, of a next state written at the width it started with. -/
theorem step_shapes_core {s t : CoreState xlen} (h : step { xlen := xlen, core := s } = .next { xlen := xlen, core := t }) :
    (s.status ≠ .running ∧ t = s) ∨
    (s.status = .running ∧ ∃ r, (r = .done ∨ r = .capped) ∧ t = (hostAction s).setStatus r) ∨
    (s.status = .running ∧ s.metrics.cycles < s.maxCycles ∧
      (interruptShape s t ∨ stagesShape s t ∨ memoryRaiseShape s t ∨ executeRaiseShape s t)) := by
  obtain ⟨u, hu, hs⟩ := step_shapes h
  cases hu
  exact hs

end Sys2Proof.Machine
end

