-- ==== Sys2Proof/Laws/Frames.lean ====
section
/-! SUPPORT. What each stage function leaves alone, said once: the fields it may change, and what little it says of them. -/

namespace Sys2Proof.Machine

variable {xlen : Nat}

/-- A cache read changes the cache and one of the two cache counters, by one. -/
theorem memReadState_counts (s : CoreState xlen) (a : Nat) :
    ∃ c m, memReadState s a = { s with cache := c, metrics := m } ∧ m.cycles = s.metrics.cycles ∧
      m.stalls = s.metrics.stalls ∧ m.interrupts = s.metrics.interrupts ∧
      m.cacheHits + m.cacheMisses = s.metrics.cacheHits + s.metrics.cacheMisses + 1 := by
  unfold memReadState
  split
  · refine ⟨s.cache, { s.metrics with cacheHits := s.metrics.cacheHits + 1 }, rfl, rfl, rfl, rfl, ?_⟩
    show s.metrics.cacheHits + 1 + s.metrics.cacheMisses = _
    omega
  · refine ⟨_, { s.metrics with cacheMisses := s.metrics.cacheMisses + 1 }, rfl, rfl, rfl, rfl, ?_⟩
    show s.metrics.cacheHits + (s.metrics.cacheMisses + 1) = _
    omega

/-- Write-back changes the registers, the WB latch and the model's own signals; WB takes what MEM held. -/
theorem writeBackStage_frame {s t : CoreState xlen} (h : writeBackStage s = .next { xlen := xlen, core := t }) :
    ∃ r l g, t = { s with regs := r, wbL := l, signals := g } ∧ l = s.memL ∧ g.fetchEn = s.signals.fetchEn := by
  rcases writeBackStage_next h with ⟨a, rfl⟩ | ⟨m, k, v, a, _, _, _, _, rfl⟩ | ⟨m, a, _, rfl⟩
  · exact ⟨s.regs, none, s.signals, rfl, a.symm, rfl⟩
  · exact ⟨_, some m, { stage := .writeBack, fetchEn := s.signals.fetchEn }, rfl, a.symm, rfl⟩
  · exact ⟨s.regs, some m, { stage := .writeBack, fetchEn := s.signals.fetchEn }, rfl, a.symm, rfl⟩

/-- Memory-access changes the cache, Main, the cache counters, the MEM latch and the model's own signals; Main only under
a STORE in EX; the MEM latch takes the entry's index and instruction. -/
theorem memoryStage_frame {s t : CoreState xlen} (h : memoryStage s = .next { xlen := xlen, core := t }) :
    ∃ c m mt l g, t = { s with cache := c, main := m, metrics := mt, memL := l, signals := g } ∧
      mt.cycles = s.metrics.cycles ∧ mt.stalls = s.metrics.stalls ∧ mt.interrupts = s.metrics.interrupts ∧
      mt.cacheHits + mt.cacheMisses ≤ s.metrics.cacheHits + s.metrics.cacheMisses + 1 ∧
      (m ≠ s.main → ∃ e, s.exL = some e ∧ isStore e.instr = true) ∧
      Option.map (fun e => (e.idx, e.instr)) l = s.exL.map (fun e => (e.idx, e.instr)) ∧
      (s.main.wf = true → Memory.wf m = true) := by
  rcases memoryStage_next h with ⟨a, rfl⟩ | ⟨e, w, a, _, _, _, rfl⟩ | ⟨e, w, v, a, b, _, _, _, rfl⟩ | ⟨e, a, _, _, rfl⟩
  · exact ⟨_, _, _, _, _, rfl, rfl, rfl, rfl, by simp, by simp, by simp [a], id⟩
  · obtain ⟨c, m, hm, h₁, h₂, h₃, h₄⟩ := memReadState_counts (s.atStage .memoryAccess) (sx w).toNat
    rw [hm]
    exact ⟨_, _, _, _, _, rfl, h₁, h₂, h₃, by rw [h₄]; rfl, by simp [CoreState.atStage, CoreState.setSignals],
      by simp [a], id⟩
  · rw [memWrite_frame]
    refine ⟨_, _, _, _, _, rfl, rfl, rfl, rfl, by simp [CoreState.atStage, CoreState.setSignals], ?_, by simp [a],
      fun hw => Memory.wf_writeMain hw _ _⟩
    intro _
    refine ⟨e, a, ?_⟩
    cases hi : e.instr <;> rw [hi] at b <;> first | rfl | cases b
  · exact ⟨_, _, _, _, _, rfl, rfl, rfl, rfl, by simp [CoreState.atStage, CoreState.setSignals],
      by simp [CoreState.atStage, CoreState.setSignals], by simp [a], id⟩

/-- Execute changes the EX latch, Z and the model's own signals; Z only for an instruction that writes it. -/
theorem executeStage_frame {s t : CoreState xlen} (h : executeStage s = .next { xlen := xlen, core := t }) :
    ∃ l z g, t = { s with exL := l, z := z, signals := g } ∧
      (z ≠ s.z → ∃ d, s.idL = some d ∧ writesZ d.instr = true) ∧
      Option.map (fun e => (e.idx, e.instr)) l = s.idL.map (fun d => (d.idx, d.instr)) := by
  rcases executeStage_next h with ⟨a, rfl⟩ | ⟨d, r, v, z, a, rfl, b, _, _, _⟩
  · exact ⟨_, _, _, rfl, by simp, by simp [a]⟩
  · refine ⟨_, _, _, rfl, ?_, by simp [a]⟩
    intro hz
    refine ⟨d, a, ?_⟩
    by_contra hw
    exact hz (b (by simpa using hw))

/-- Decode changes PC, the IF and ID latches, the stall counter and the model's own signals, in one of three ways: the
instruction moves on, it stalls, or it is a taken branch. -/
theorem decodeStage_frame {s t : CoreState xlen} (h : decodeStage s = .next { xlen := xlen, core := t }) :
    ∃ p i l mt g, t = { s with pc := p, ifL := i, idL := l, metrics := mt, signals := g } ∧
      ((p = s.pc ∧ i = s.ifL ∧ mt = s.metrics ∧ g.fetchEn = true ∧
          Option.map (fun d => (d.idx, d.instr)) l = s.ifL.map (fun f => (f.idx, f.instr))) ∨
       (p = s.pc ∧ i = s.ifL ∧ l = none ∧ mt = { s.metrics with stalls := s.metrics.stalls + 1 } ∧ g.fetchEn = false ∧
          ∃ e, s.exL = some e ∧ e.instr.opcode = .load) ∨
       (∃ f, s.ifL = some f ∧ (∃ w, targetOf f.instr = some w ∧ p = word xlen w) ∧ i = none ∧ l = none ∧
          mt = s.metrics ∧ g.fetchEn = false)) := by
  rcases decodeStage_next h with ⟨a, rfl⟩ | ⟨f, vs, a, _, _, rfl⟩ | ⟨f, _, _, c, rfl⟩ | ⟨f, w, a, b, rfl⟩ |
    ⟨f, w, a, _, _, rfl⟩
  · exact ⟨s.pc, s.ifL, none, s.metrics, { stage := s.signals.stage, fetchEn := true }, rfl,
      .inl ⟨rfl, rfl, rfl, rfl, by simp [a]⟩⟩
  · exact ⟨s.pc, s.ifL, _, s.metrics, { stage := .decode, fetchEn := true }, rfl,
      .inl ⟨rfl, rfl, rfl, rfl, by simp [a, decodedEntry]⟩⟩
  · exact ⟨s.pc, s.ifL, none, { s.metrics with stalls := s.metrics.stalls + 1 }, { stage := .decode, fetchEn := false },
      stall_eq _, .inr (.inl ⟨rfl, rfl, rfl, rfl, rfl, resolveAll_stall c⟩)⟩
  · exact ⟨word xlen w, none, none, s.metrics, { stage := .decode, fetchEn := false }, flushTo_eq _ _,
      .inr (.inr ⟨f, a, ⟨w, b, rfl⟩, rfl, rfl, rfl, rfl⟩)⟩
  · exact ⟨s.pc, s.ifL, _, s.metrics, { stage := .decode, fetchEn := true }, rfl,
      .inl ⟨rfl, rfl, rfl, rfl, by simp [a, decodedEntry]⟩⟩

/-- Fetch changes PC, the IF latch and the model's own signals, and only when `fetch_en` is 1. -/
theorem fetchStage_frame {s t : CoreState xlen} (h : fetchStage s = .next { xlen := xlen, core := t }) :
    ∃ p i g, t = { s with pc := p, ifL := i, signals := g } ∧
      ((s.signals.fetchEn = false ∧ p = s.pc ∧ i = s.ifL) ∨
       (s.signals.fetchEn = true ∧ p = s.pc ∧ i = none) ∨
       (s.signals.fetchEn = true ∧ p = s.pc + 1 ∧
          ∃ j, recordAtPC s = some (.ok j) ∧ i = some { idx := ux s.pc, instr := j })) := by
  rcases fetchStage_next h with ⟨a, rfl⟩ | ⟨a, _, rfl⟩ | ⟨i, a, b, rfl⟩
  · exact ⟨_, _, _, rfl, .inl ⟨a, rfl, rfl⟩⟩
  · exact ⟨_, _, _, rfl, .inr (.inl ⟨a, rfl, rfl⟩)⟩
  · exact ⟨_, _, _, rfl, .inr (.inr ⟨a, rfl, i, b, rfl⟩)⟩

end Sys2Proof.Machine
end

