-- ==== Sys2Proof/Laws/PerInstr.lean ====
section
/-! SUPPORT. One fact of every instruction: the encoder puts the opcode's code of 30_encoding.md R102 into bits [3:0] of
the record word (R103). -/

namespace Sys2Proof.Laws.EncodedOpcode

/-- Bits [3:0] of the instruction's record word hold, at every width, its opcode's code. -/
def Statement (i : Instr) : Prop := ∀ xlen : Nat, opcField (encode xlen i) = BitVec.ofNat 4 i.opcode.code

theorem nop : Statement (.nop) := fun xlen => opcField_packWord (xlen := xlen) _ _ _ _ _ _ _
theorem add (rd : Nat) (a : Operand) (b : Operand) : Statement (.add rd a b) := fun xlen => opcField_packWord (xlen := xlen) _ _ _ _ _ _ _
theorem sub (rd : Nat) (a : Operand) (b : Operand) : Statement (.sub rd a b) := fun xlen => opcField_packWord (xlen := xlen) _ _ _ _ _ _ _
theorem mul (rd : Nat) (a : Operand) (b : Operand) : Statement (.mul rd a b) := fun xlen => opcField_packWord (xlen := xlen) _ _ _ _ _ _ _
theorem and (rd : Nat) (a : Operand) (b : Operand) : Statement (.and rd a b) := fun xlen => opcField_packWord (xlen := xlen) _ _ _ _ _ _ _
theorem shl (rd : Nat) (a : Operand) (b : Operand) : Statement (.shl rd a b) := fun xlen => opcField_packWord (xlen := xlen) _ _ _ _ _ _ _
theorem mov (rd : Nat) (a : Operand) : Statement (.mov rd a) := fun xlen => opcField_packWord (xlen := xlen) _ _ _ _ _ _ _
theorem load (rd : Nat) (a : Operand) : Statement (.load rd a) := fun xlen => opcField_packWord (xlen := xlen) _ _ _ _ _ _ _
theorem store (rs : Nat) (a : Operand) : Statement (.store rs a) := fun xlen => opcField_packWord (xlen := xlen) _ _ _ _ _ _ _
theorem cmp (a : Operand) (b : Operand) : Statement (.cmp a b) := fun xlen => opcField_packWord (xlen := xlen) _ _ _ _ _ _ _
theorem jmp (t : Int) : Statement (.jmp t) := fun xlen => opcField_packWord (xlen := xlen) _ _ _ _ _ _ _
theorem jz (t : Int) : Statement (.jz t) := fun xlen => opcField_packWord (xlen := xlen) _ _ _ _ _ _ _
theorem jnz (t : Int) : Statement (.jnz t) := fun xlen => opcField_packWord (xlen := xlen) _ _ _ _ _ _ _
theorem je (t : Int) : Statement (.je t) := fun xlen => opcField_packWord (xlen := xlen) _ _ _ _ _ _ _

end Sys2Proof.Laws.EncodedOpcode
end

