-- ==== Sys2Proof/Tests/Slice0.lean ====
section
/-! SUPPORT. Tests on fixed values: the WellFormed smoke, decoding from the words of spec/95_test_vectors.md section 2,
static validation from its section 3, one step or stage per instruction from the corner cases of the rules, and for each
statement with hypotheses a state and operands that meet them. -/

namespace Sys2Proof.Tests

open Sys2Proof Sys2Proof.Machine

/-- The states of the tests: of the width the spec's vectors are written for. -/
abbrev Core := CoreState testXLEN

/-! ### Small states -/

/-- A record word of the test width from its bits. -/
def bits (n : Nat) : RecordWord 32 := BitVec.ofNat (RW 32) n

/-- Registers R0 to R7 of the test states. -/
def regs0 : List (Word 32) := [0, 10, 5, 7, 0xFFFFFFFF, 0x80000000, 63, 64]

/-- Reset with those registers and a program of one word. -/
def alone (w : RecordWord 32) : Core := { CoreState.reset with regs := regs0, prog := [.word w] }

/-- An instruction in IF, Decode running, as index 0 of its program. -/
def decoding (i : Instr) : Core :=
  { alone (encode 32 i) with ifL := some { idx := 0, instr := i }, pc := 1, signals := { stage := .decode, fetchEn := true } }

/-- The ID entry of an instruction with these source values. -/
def idOf (i : Instr) (vs : List (Word 32)) : IdEntry 32 := decodedEntry 0 i (destOf i) (srcsOf i) vs (targetOf i)

/-- An instruction in ID with these source values, Execute running. -/
def executing (i : Instr) (vs : List (Word 32)) : Core :=
  { alone (encode 32 i) with idL := some (idOf i vs), pc := 1, signals := { stage := .execute, fetchEn := true } }

/-- The entry of an instruction past Execute. -/
def exOf (i : Instr) (r v : Option (Word 32)) : ExEntry 32 :=
  { idx := 0, instr := i, dest := destOf i, result := r, sval := v }

/-- An instruction in EX with this result and value, Memory-access running. -/
def accessing (i : Instr) (r v : Option (Word 32)) : Core :=
  { alone (encode 32 i) with
    exL := some (exOf i r v), pc := 1, main := [(4, 44), (5, 55)], signals := { stage := .memoryAccess, fetchEn := true } }

/-- An instruction in MEM with this result, Write-back running. -/
def committing (i : Instr) (r : Option (Word 32)) : Core :=
  { alone (encode 32 i) with
    memL := some (exOf i r none), pc := 1, signals := { stage := .writeBack, fetchEn := true } }

/-- The state of a machine whose width is that of the tests. -/
def coreOf (t : State) : Option Core := if h : t.xlen = testXLEN then some (cast (congrArg CoreState h) t.core) else none

/-- What a next state shows; none for a fault or a refusal. -/
def shows {α : Type} (f : Core → α) : Result → Option α
  | .next t => (coreOf t).map f
  | _ => none

/-- The fault an outcome is. -/
def faultOf : Result → Option Fault
  | .fault f => some f
  | _ => none

/-- The result in EX and the zero flag. -/
def resultAndZ (t : Core) : Option (Word 32) × Bool := (t.exL.bind (·.result), t.z)

/-! ### WellFormed: an ill-formed term for each check -/

theorem test_wf_refuses_missing_destination :
    Instr.wf 32 8 (.add 8 (.reg 1) (.reg 2)) = false ∧ Instr.wf 32 8 (.sub 8 (.reg 1) (.reg 2)) = false ∧
    Instr.wf 32 8 (.mul 8 (.reg 1) (.reg 2)) = false ∧ Instr.wf 32 8 (.and 8 (.reg 1) (.reg 2)) = false ∧
    Instr.wf 32 8 (.shl 8 (.reg 1) (.reg 2)) = false ∧ Instr.wf 32 8 (.mov 8 (.reg 1)) = false ∧
    Instr.wf 32 8 (.load 8 (.reg 1)) = false ∧ Instr.wf 32 8 (.store 8 (.reg 1)) = false := by decide

theorem test_wf_refuses_missing_first_source :
    Instr.wf 32 8 (.add 1 (.reg 8) (.reg 2)) = false ∧ Instr.wf 32 8 (.sub 1 (.reg 8) (.reg 2)) = false ∧
    Instr.wf 32 8 (.mul 1 (.reg 8) (.reg 2)) = false ∧ Instr.wf 32 8 (.and 1 (.reg 8) (.reg 2)) = false ∧
    Instr.wf 32 8 (.shl 1 (.reg 8) (.reg 2)) = false ∧ Instr.wf 32 8 (.mov 1 (.reg 8)) = false ∧
    Instr.wf 32 8 (.load 1 (.reg 8)) = false ∧ Instr.wf 32 8 (.store 1 (.reg 8)) = false ∧
    Instr.wf 32 8 (.cmp (.reg 8) (.reg 2)) = false := by decide

theorem test_wf_refuses_missing_second_source :
    Instr.wf 32 8 (.add 1 (.reg 2) (.reg 8)) = false ∧ Instr.wf 32 8 (.sub 1 (.reg 2) (.reg 8)) = false ∧
    Instr.wf 32 8 (.mul 1 (.reg 2) (.reg 8)) = false ∧ Instr.wf 32 8 (.and 1 (.reg 2) (.reg 8)) = false ∧
    Instr.wf 32 8 (.shl 1 (.reg 2) (.reg 8)) = false ∧ Instr.wf 32 8 (.cmp (.reg 2) (.reg 8)) = false := by decide

theorem test_wf_accepts_highest_register :
    Instr.wf 32 8 (.add 7 (.reg 7) (.reg 7)) = true ∧ Instr.wf 32 8 (.cmp (.imm 9) (.reg 7)) = true ∧
    Instr.wf 32 0 .nop = true ∧ Instr.wf 32 0 (.jmp 9) = true := by decide

theorem test_params_wf_refuses_each_violation :
    Params.test.wf = true ∧ ({ Params.test with numRegs := 0 } : Params 32).wf = false ∧
    ({ Params.test with blockSize := 0 } : Params 32).wf = false ∧ ({ Params.test with numLines := 0 } : Params 32).wf = false ∧
    ({ Params.test with memSize := 0 } : Params 32).wf = false ∧ ({ Params.test with memSize := 63 } : Params 32).wf = false ∧
    ({ Params.test with memSize := 0x80000004 } : Params 32).wf = false ∧
    ({ Params.test with sentinelReg := 8 } : Params 32).wf = false := by decide

theorem test_program_length_bound : progLenOk 32 0x7FFFFFFF = true ∧ progLenOk 32 0x80000000 = false := by decide

/-! ### Decoding: the words of 95_test_vectors.md section 2 -/

theorem test_decode_nop : decodeTableWord 112 0x0 = some .nop := by decide
theorem test_decode_add : decodeTableWord 112 0x8000000040000000d51 = some (.add 3 (.reg 1) (.reg 2)) := by decide
theorem test_decode_add_negative :
    decodeTableWord 112 0x3fffffffc000000040000000651 = some (.add 1 (.reg 1) (.imm (-1))) := by decide
theorem test_decode_sub : decodeTableWord 112 0x40000000c0000001152 = some (.sub 4 (.reg 3) (.reg 1)) := by decide
theorem test_decode_mul : decodeTableWord 112 0x8000000100000001553 = some (.mul 5 (.reg 4) (.reg 2)) := by decide
theorem test_decode_and : decodeTableWord 112 0x28000000040000000a54 = some (.and 2 (.reg 1) (.imm 10)) := by decide
theorem test_decode_shl : decodeTableWord 112 0x10000000040000000a55 = some (.shl 2 (.reg 1) (.imm 4)) := by decide
theorem test_decode_mov : decodeTableWord 112 0x140000000496 = some (.mov 1 (.imm 5)) := by decide
theorem test_decode_mov_lowest :
    decodeTableWord 112 0x2000000000000000496 = some (.mov 1 (.imm (-2147483648))) := by decide
theorem test_decode_load : decodeTableWord 112 0x40000000c57 = some (.load 3 (.reg 1)) := by decide
theorem test_decode_store : decodeTableWord 112 0x140000000498 = some (.store 1 (.imm 5)) := by decide
theorem test_decode_cmp : decodeTableWord 112 0x280000000499 = some (.cmp (.reg 1) (.imm 10)) := by decide
theorem test_decode_cmp_immediates : decodeTableWord 112 0xc0000000ca9 = some (.cmp (.imm 3) (.imm 3)) := by decide
theorem test_decode_jmp : decodeTableWord 112 0x2a = some (.jmp 0) := by decide
theorem test_decode_jmp_negative : decodeTableWord 112 0x3fffffffc2a = some (.jmp (-1)) := by decide
theorem test_decode_jz : decodeTableWord 112 0x242b = some (.jz 9) := by decide
theorem test_decode_jnz : decodeTableWord 112 0x82c = some (.jnz 2) := by decide
theorem test_decode_je : decodeTableWord 112 0xc2d = some (.je 3) := by decide

/-- `MOV R1,5` bit by bit, most significant field first: v2, v1, v0, k2, k1, k0, opc (30_encoding.md R103, R116). -/
theorem test_decode_bits_mov :
    decodeWord (xlen := 32) 8 0 (0b00000000000000000000000000000000#32 ++ 0b00000000000000000000000000000101#32
      ++ 0b00000000000000000000000000000001#32 ++ 0b00#2 ++ 0b10#2 ++ 0b01#2 ++ 0b0110#4)
      = .ok (.mov 1 (.imm 5)) := by decide

/-- `ADD R3,R1,-2` bit by bit. -/
theorem test_decode_bits_add :
    decodeWord (xlen := 32) 8 0 (0b11111111111111111111111111111110#32 ++ 0b00000000000000000000000000000001#32
      ++ 0b00000000000000000000000000000011#32 ++ 0b10#2 ++ 0b01#2 ++ 0b01#2 ++ 0b0001#4)
      = .ok (.add 3 (.reg 1) (.imm (-2))) := by decide

/-- `CMP 3,R2` bit by bit. -/
theorem test_decode_bits_cmp :
    decodeWord (xlen := 32) 8 0 (0b00000000000000000000000000000000#32 ++ 0b00000000000000000000000000000010#32
      ++ 0b00000000000000000000000000000011#32 ++ 0b00#2 ++ 0b01#2 ++ 0b10#2 ++ 0b1001#4)
      = .ok (.cmp (.imm 3) (.reg 2)) := by decide

/-- `JNZ 2` bit by bit, and `NOP`. -/
theorem test_decode_bits_jnz_nop :
    decodeWord (xlen := 32) 8 0 (0#32 ++ 0#32 ++ 0b00000000000000000000000000000010#32 ++ 0b00#2 ++ 0b00#2 ++ 0b10#2 ++ 0b1100#4)
      = .ok (.jnz 2) ∧
    decodeWord (xlen := 32) 8 0 (0#32 ++ 0#32 ++ 0#32 ++ 0b00#2 ++ 0b00#2 ++ 0b00#2 ++ 0b0000#4) = .ok .nop := by decide

/-! ### Static validation: vectors V1 to V22 of 95_test_vectors.md section 3 -/

/-- The kind and index of the fault that refuses a program, and its info. -/
def refusal (text : List Char) : Option (FaultKind × Nat × FaultInfo) :=
  (firstStaticFault (xlen := 32) 8 0 (assemble text)).map (fun r => (r.kind, r.idx, r.info))

/-- The kind of the fault that refuses one record word. -/
def wordRefusal (w : Nat) : Option FaultKind :=
  (firstStaticFault (xlen := 32) 8 0 [.word (bits w)]).map (·.kind)

theorem test_v1_unknown_mnemonic :
    refusal "DIV R1,R2,R3".toList = some (.unknownOpcode, 0, .opcode (.text "DIV".toList)) := by decide

theorem test_v3_to_v7_words :
    wordRefusal 0xe = some .unknownOpcode ∧ wordRefusal 0xf = some .unknownOpcode ∧
    wordRefusal 0x30 = some .malformedOperands ∧ wordRefusal 0x400 = some .malformedOperands ∧
    wordRefusal 0x46 = some .malformedOperands := by decide

theorem test_v9_v12_shapes :
    refusal "ADD R1,R2".toList = some (.malformedOperands, 0, .nothing) ∧
    refusal "JMP R1".toList = some (.malformedOperands, 0, .nothing) := by decide

theorem test_v15_v16_registers :
    refusal "ADD R1,R2,R9".toList = some (.invalidRegister, 0, .register 2 (.index 9)) ∧
    refusal "MOV PC,1".toList = some (.invalidRegister, 0, .register 0 .pc) := by decide

theorem test_v18_v20_immediates :
    refusal "MOV R1,2147483648".toList = some (.immediateOutOfRange, 0, .immediate 1 2147483648) ∧
    refusal "MOV R9,4294967296".toList = some (.invalidRegister, 0, .register 0 (.index 9)) := by decide

theorem test_v21_first_failing_index :
    refusal "MOV R1,1\nJMP 3\nFOO\nMOV R2,2".toList = some (.unknownOpcode, 2, .opcode (.text "FOO".toList)) := by decide

theorem test_assembled_line_is_accepted :
    decodeItem (xlen := 32) 8 0 (.record (readLine "SUB R4 , R3,\tR1".toList)) = .ok (.sub 4 (.reg 3) (.reg 1)) ∧
    decodeItem (xlen := 32) 8 0 (.record (readLine "MOV R1,-2147483648".toList)) = .ok (.mov 1 (.imm (-2147483648))) := by decide

/-! ### One stage an instruction: the corner cases of 41_arithmetic.md to 45_nop.md -/

theorem test_add_wraps_to_zero :
    shows resultAndZ (exec (.add 3 (.reg 4) (.imm 1)) ⟨_, executing (.add 3 (.reg 4) (.imm 1)) [0xFFFFFFFF, 1]⟩)
      = some (some 0, true) := by decide

theorem test_add_signed_overflow :
    shows resultAndZ (exec (.add 3 (.reg 1) (.imm 1)) ⟨_, executing (.add 3 (.reg 1) (.imm 1)) [0x7FFFFFFF, 1]⟩)
      = some (some 0x80000000, false) := by decide

theorem test_sub_borrows :
    shows resultAndZ (exec (.sub 3 (.reg 0) (.imm 1)) ⟨_, executing (.sub 3 (.reg 0) (.imm 1)) [0, 1]⟩)
      = some (some 0xFFFFFFFF, false) := by decide

theorem test_sub_order_of_operands :
    shows resultAndZ (exec (.sub 4 (.reg 3) (.reg 1)) ⟨_, executing (.sub 4 (.reg 3) (.reg 1)) [15, 5]⟩)
      = some (some 10, false) := by decide

theorem test_mul_drops_high_half :
    shows resultAndZ (exec (.mul 3 (.reg 1) (.reg 1)) ⟨_, executing (.mul 3 (.reg 1) (.reg 1)) [0x10000, 0x10000]⟩)
      = some (some 0, true) := by decide

theorem test_mul_negative :
    shows resultAndZ (exec (.mul 3 (.reg 4) (.imm 5)) ⟨_, executing (.mul 3 (.reg 4) (.imm 5)) [0xFFFFFFFF, 5]⟩)
      = some (some 0xFFFFFFFB, false) := by decide

theorem test_and_bits :
    shows resultAndZ (exec (.and 3 (.reg 1) (.reg 2)) ⟨_, executing (.and 3 (.reg 1) (.reg 2)) [0b1100, 0b1010]⟩)
      = some (some 0b1000, false) := by decide

theorem test_and_zero :
    shows resultAndZ (exec (.and 3 (.reg 1) (.imm 0)) ⟨_, executing (.and 3 (.reg 1) (.imm 0)) [4660, 0]⟩)
      = some (some 0, true) := by decide

theorem test_shl_by_31_and_32 :
    shows resultAndZ (exec (.shl 3 (.reg 1) (.imm 31)) ⟨_, executing (.shl 3 (.reg 1) (.imm 31)) [3, 31]⟩)
      = some (some 0x80000000, false) ∧
    shows resultAndZ (exec (.shl 3 (.reg 1) (.imm 32)) ⟨_, executing (.shl 3 (.reg 1) (.imm 32)) [3, 32]⟩)
      = some (some 0, true) := by decide

theorem test_shl_negative_raises :
    faultOf (exec (.shl 3 (.reg 1) (.reg 4)) ⟨_, executing (.shl 3 (.reg 1) (.reg 4)) [3, 0xFFFFFFFF]⟩)
      = some (.negativeShift 0 (-1)) := by decide

theorem test_mov_resolves_register :
    shows (fun t => t.idL.map (fun d => (d.dest, d.vals))) (exec (.mov 2 (.reg 1)) ⟨_, decoding (.mov 2 (.reg 1))⟩)
      = some (some (some 2, [10])) := by decide

theorem test_mov_writes_back :
    shows (fun t => (t.regs[2]?, t.wbL.isSome)) (exec (.mov 2 (.reg 1)) ⟨_, committing (.mov 2 (.reg 1)) (some 10)⟩)
      = some (some 10, true) := by decide

theorem test_load_miss_fills_line :
    shows (fun t => (t.memL.bind (·.result), t.cache[1]?, t.metrics.cacheMisses))
      (exec (.load 2 (.imm 5)) ⟨_, accessing (.load 2 (.imm 5)) (some 5) none⟩)
      = some (some 55, some { valid := true, tag := 0, data := [44, 55, 0, 0] }, 1) := by decide

theorem test_load_outside_memory_raises :
    faultOf (exec (.load 2 (.reg 7)) ⟨_, accessing (.load 2 (.reg 7)) (some 64) none⟩) = some (.addressOutOfRange 0 64) ∧
    faultOf (exec (.load 2 (.reg 4)) ⟨_, accessing (.load 2 (.reg 4)) (some 0xFFFFFFFF) none⟩)
      = some (.addressOutOfRange 0 (-1)) := by decide

theorem test_store_miss_writes_main_alone :
    shows (fun t => (readMain t.main 63, t.cache[3]?.map (·.valid), t.metrics.cacheMisses))
      (exec (.store 1 (.reg 6)) ⟨_, accessing (.store 1 (.reg 6)) (some 63) (some 10)⟩)
      = some (10, some false, 0) := by decide

theorem test_store_value_is_first_source :
    shows (fun t => t.idL.map (fun d => (d.dest, d.vals))) (exec (.store 1 (.reg 6)) ⟨_, decoding (.store 1 (.reg 6))⟩)
      = some (some (none, [10, 63])) := by decide

theorem test_cmp_words :
    shows (·.z) (exec (.cmp (.reg 4) (.imm (-1))) ⟨_, executing (.cmp (.reg 4) (.imm (-1))) [0xFFFFFFFF, -1]⟩)
      = some true ∧
    shows (·.z) (exec (.cmp (.reg 0) (.reg 5)) ⟨_, executing (.cmp (.reg 0) (.reg 5)) [0, 0x80000000]⟩)
      = some false := by decide

theorem test_cmp_writes_no_register :
    shows (·.regs) (exec (.cmp (.reg 1) (.reg 2)) ⟨_, committing (.cmp (.reg 1) (.reg 2)) (some 5)⟩) = some regs0 := by decide

theorem test_jmp_is_taken :
    shows (fun t => (t.pc, t.ifL.isSome, t.idL.isSome, t.signals.fetchEn)) (exec (.jmp (-1)) ⟨_, decoding (.jmp (-1))⟩)
      = some (-1, false, false, false) := by decide

theorem test_jz_not_taken_at_reset :
    shows (fun t => (t.pc, t.idL.map (·.dest), t.ifL.isSome)) (exec (.jz 9) ⟨_, decoding (.jz 9)⟩)
      = some (1, some none, true) := by decide

theorem test_jnz_taken_at_reset :
    shows (fun t => (t.pc, t.ifL.isSome)) (exec (.jnz 9) ⟨_, decoding (.jnz 9)⟩) = some (9, false) := by decide

theorem test_je_taken_when_zero :
    shows (fun t => (t.pc, t.ifL.isSome)) (exec (.je 9) ⟨_, { decoding (.je 9) with z := true }⟩) = some (9, false) := by decide

theorem test_nop_has_no_result :
    shows resultAndZ (exec .nop ⟨_, { executing .nop [] with z := true }⟩) = some (none, true) := by decide

/-- 40_pipeline.md R136 check (3), R139: a reader behind the LOAD of its register stalls. -/
theorem test_load_use_stalls :
    shows (fun t => (t.idL.isSome, t.ifL.isSome, t.metrics.stalls, t.signals.fetchEn))
      (exec (.add 2 (.reg 1) (.imm 1))
        ⟨_, { decoding (.add 2 (.reg 1) (.imm 1)) with exL := some (exOf (.load 1 (.imm 0)) (some 0) none) }⟩)
      = some (false, true, 1, false) := by decide

/-- R136, R150: the writer in WB wins over those in MEM and EX, even over a LOAD. -/
theorem test_oldest_writer_wins :
    resolve (.reg 1) { alone 0 with
      wbL := some (exOf (.mov 1 (.imm 1)) (some 1) none), memL := some (exOf (.mov 1 (.imm 2)) (some 2) none),
      exL := some (exOf (.load 1 (.imm 0)) (some 0) none) } = .value 1 := by decide

/-! ### One step of the machine -/

/-- 70_reset_and_hazards.md R301: cycle 0 fetches index 0 (trace P1 of 95_test_vectors.md, row 0). -/
theorem test_first_step_fetches :
    shows (fun t => (t.ifL, t.pc, t.metrics.cycles, t.status)) (step (State.reset.withFetchWord 112 0x140000000496))
      = some (some { idx := 0, instr := .mov 1 (.imm 5) }, 1, 1, .running) := by decide

/-- 60_exceptions.md R274, R302: a ready device makes cycle 0 an interrupt cycle. -/
theorem test_interrupt_cycle :
    shows (fun t => (t.regs[7]?, t.pc, t.dev.ready, t.metrics.interrupts))
      (step ⟨_, { alone 0 with dev := { ready := true, value := 3 } }⟩) = some (some 999, 0, false, 1) := by decide

/-- R305: an empty program is done at once (vector N0). -/
theorem test_empty_program_is_done :
    shows (fun t => (t.status, t.metrics.cycles)) (step ⟨_, CoreState.reset⟩) = some (.done, 0) := by decide

/-- R306: a cap of 0 runs no cycle (vector Cap0). -/
theorem test_cap_zero :
    shows (fun t => (t.status, t.metrics.cycles)) (step ⟨_, { alone 0 with maxCycles := 0 }⟩) = some (.capped, 0) := by decide

/-- R262 to R265 (vector P6, cycle 3): the run ends with the record; EX keeps its entry and no counter moves. -/
theorem test_address_fault_ends_run :
    shows (fun t => (t.status, t.exL.isSome, t.metrics.cacheMisses, t.metrics.cycles))
      (step ⟨_, { accessing (.load 1 (.reg 7)) (some 64) none with
        metrics := { CoreState.reset.metrics with cycles := 3 }, signals := Signals.rest }⟩)
      = some (.faulted { kind := .addressOutOfRange, idx := 0, info := .address 64, cycle := some 3 }, true, 0, 3) := by
  decide

/-- A program that fails validation is refused with the word it would fetch, and its cycle never runs (R261). -/
theorem test_refused_word_runs_nothing :
    shows (fun t => (t.status, t.ifL.isSome, t.metrics.cycles)) (step (State.reset.withFetchWord 112 0x30))
      = some (.refused { kind := .malformedOperands, idx := 0, info := .nothing, cycle := none }, false, 0) := by decide

/-! ### Other widths (00_scope.md R7) -/

/-- A machine of width 8 with the parameters of the tests. -/
def inputs8 : RunInputs :=
  { RunInputs.none with
    xlen := 8, initRegs := [255, 1], initMem := [], triggers := [],
    prog := [.word (encode 8 (.add 0 (.reg 0) (.reg 1)))],
    params := { numRegs := 2, memSize := 64, blockSize := 4, numLines := 4, sentinelReg := 1, sentinelValue := 99,
                isrAddr := 100 } }

/-- Bits [9:0] are `01 01 01 0001`, and each slot value has 8 bits (30_encoding.md R103 at XLEN = 8). -/
theorem test_record_word_of_width_8 :
    encode 8 (.add 0 (.reg 0) (.reg 1)) = (0b0000000100000000000000000101010001#34 : BitVec (RW 8)) := by decide

/-- 255 + 1 wraps to 0 at width 8: R0 and the zero flag after five cycles (R11, R182). -/
theorem test_add_wraps_at_width_8 :
    (match runSteps 5 (resetMachine inputs8 { ready := false, value := 0 }) with
     | .next t => (t.core.regs.map (·.toNat), t.core.z, t.xlen)
     | _ => ([], false, 0)) = ([0, 1], true, 8) := by decide

/-! ### For each statement with hypotheses, states and operands that meet them -/

theorem shows_next {α : Type} {f : Core → α} {o : Result} {a : α} (h : shows f o = some a) :
    ∃ t : Core, o = .next ⟨_, t⟩ ∧ f t = a := by
  cases o with
  | next t =>
    obtain ⟨n, c⟩ := t
    by_cases hn : n = testXLEN
    · subst hn
      exact ⟨c, rfl, by simpa [shows, coreOf] using h⟩
    · simp [shows, coreOf, hn] at h
  | fault f => cases h
  | refused r => cases h

/-- A program in flight: STORE R1,5 in IF, CMP R1,2 in ID, ADD R2,R1,1 in EX, MOV R1,2 in MEM; line 1 of the cache valid. -/
def busy : Core :=
  { CoreState.reset with
    regs := regs0, main := [(4, 44), (5, 55)], pc := 4,
    cache := CoreState.reset.cache.set 1 { valid := true, tag := 0, data := [44, 55, 0, 0] },
    metrics := { cycles := 4, stalls := 0, cacheHits := 1, cacheMisses := 1, interrupts := 0 },
    prog := [.word (encode 32 (.mov 1 (.imm 2))), .word (encode 32 (.add 2 (.reg 1) (.imm 1))),
      .word (encode 32 (.cmp (.reg 1) (.imm 2))), .word (encode 32 (.store 1 (.imm 5)))],
    memL := some { idx := 0, instr := .mov 1 (.imm 2), dest := some 1, result := some 2, sval := none },
    exL := some { idx := 1, instr := .add 2 (.reg 1) (.imm 1), dest := some 2, result := some 3, sval := none },
    idL := some { idx := 2, instr := .cmp (.reg 1) (.imm 2), dest := none, srcs := [.reg 1, .imm 2], vals := [2, 2],
                  target := none, hazard := false },
    ifL := some { idx := 3, instr := .store 1 (.imm 5) } }

/-- An instruction alone before the pipeline, with line 1 of the cache valid and a full word of Main at both ends. -/
def before (i : Instr) (z : Bool) : Core :=
  { alone (encode 32 i) with
    z := z, main := [(0, 11), (4, 44), (5, 55), (63, 9)],
    cache := CoreState.reset.cache.set 1 { valid := true, tag := 0, data := [44, 55, 0, 0] } }

theorem witness_EncodedInstructionDecodesBack :
    2 ≤ 32 ∧ 8 ≤ 2 ^ 32 ∧ Instr.wf 32 8 (.add 7 (.reg 7) (.imm (-2147483648))) = true ∧ Instr.wf 32 8 (.jmp (-1)) = true := by decide

theorem witness_AcceptedWordReadsAsItsRecord :
    decodeWord (xlen := 32) 8 0 (bits 0x140000000496) = .ok (.mov 1 (.imm 5)) ∧
    decodeWord (xlen := 32) 8 0 (bits 0x8000000040000000d51) = .ok (.add 3 (.reg 1) (.reg 2)) := by decide

theorem witness_ReservedOpcodeIsUnknown :
    14 ≤ (opcField (bits 0xe)).toNat ∧ 14 ≤ (opcField (bits 0xf)).toNat := by decide

/-- The known-opcode premise and each of the ten clauses in turn: a reserved kind in each slot, a nonzero none slot in
each, each gap, and a shape R107 does not admit: `MOV` with an immediate destination. -/
theorem witness_MalformedWordIsRefused :
    (opcField (bits 0x30)).toNat < 14 ∧ kind0 (bits 0x30) = 0b11#2 ∧ kind1 (bits 0xc0) = 0b11#2 ∧ kind2 (bits 0x300) = 0b11#2 ∧
    (kind0 (bits 0x400) = 0b00#2 ∧ value0 (bits 0x400) ≠ 0) ∧
    (kind1 (bits 0x40000000000) = 0b00#2 ∧ value1 (bits 0x40000000000) ≠ 0) ∧
    (kind2 (bits 0x4000000000000000000) = 0b00#2 ∧ value2 (bits 0x4000000000000000000) ≠ 0) ∧
    (kind0 (bits 0x46) = 0b00#2 ∧ kind1 (bits 0x46) ≠ 0b00#2) ∧ (kind0 (bits 0x106) = 0b00#2 ∧ kind2 (bits 0x106) ≠ 0b00#2) ∧
    (kind1 (bits 0x116) = 0b00#2 ∧ kind2 (bits 0x116) ≠ 0b00#2) ∧
    (opcodeOfCode (opcField (bits 0xa6)).toNat = some .mov ∧
      ¬ kindsAdmitted .mov (kind0 (bits 0xa6)) (kind1 (bits 0xa6)) (kind2 (bits 0xa6))) := by
  refine ⟨by decide, by decide, by decide, by decide, by decide, by decide, by decide, by decide, by decide, by decide,
    by decide, ?_⟩
  rintro ⟨h, _⟩
  exact absurd h (by decide)

theorem witness_MissingRegisterIsInvalid :
    Instr.wf 32 (2 ^ 32) (.mov 8 (.imm 1)) = true ∧ Instr.wf 32 8 (.mov 8 (.imm 1)) = false ∧
    Instr.wf 32 (2 ^ 32) (.cmp (.imm 1) (.reg 0xFFFFFFFF)) = true ∧
    Instr.wf 32 8 (.cmp (.imm 1) (.reg 0xFFFFFFFF)) = false := by decide

/-- One operand list a clause: `MOV 1,R1` and `ADD R1,R2`, which R107 does not admit; `ADD R1,R8,R9`, whose first missing
register is R8; `MOV R1,2147483648`, out of range by one; `MOV R7,-2147483648`, accepted. -/
theorem witness_RecordOperandsAreChecked :
    (opcodeOf (.code 6) = some .mov ∧ opcodeOf (.code 1) = some .add) ∧
    ¬ admits .mov [.imm 1, .reg 1] ∧ ¬ admits .add [.reg 1, .reg 2] ∧
    (admits .add [.reg 1, .reg 8, .reg 9] ∧ namesMissing 8 (.reg 8) (.index 8) ∧
      ∀ j < 1, ∀ o', [RawOperand.reg 1, .reg 8, .reg 9][j]? = some o' → ∀ n, ¬ namesMissing 8 o' n) ∧
    (admits .mov [.reg 1, .imm 2147483648] ∧
      (∀ o ∈ [RawOperand.reg 1, .imm 2147483648], ∀ n, ¬ namesMissing 8 o n) ∧
      ¬ (-(2 ^ (32 - 1)) ≤ (2147483648 : Int) ∧ (2147483648 : Int) < 2 ^ (32 - 1))) ∧
    (admits .mov [.reg 7, .imm (-2147483648)] ∧
      (∀ o ∈ [RawOperand.reg 7, .imm (-2147483648)], ∀ n, ¬ namesMissing 8 o n) ∧
      (-(2 ^ (32 - 1)) ≤ (-2147483648 : Int) ∧ (-2147483648 : Int) < 2 ^ (32 - 1))) := by
  refine ⟨by decide, ?_, ?_, ⟨⟨_, _, _, rfl, .inl ⟨_, rfl⟩, .inl (.inl ⟨_, rfl⟩), .inl (.inl ⟨_, rfl⟩)⟩,
    .inl ⟨8, rfl, by decide, rfl⟩, ?_⟩, ⟨⟨_, _, rfl, .inl ⟨_, rfl⟩, .inr ⟨_, rfl⟩⟩, ?_, by decide⟩,
    ⟨⟨_, _, rfl, .inl ⟨_, rfl⟩, .inr ⟨_, rfl⟩⟩, ?_, by decide⟩⟩
  · rintro ⟨r, a, h, hr, _⟩
    cases h
    rcases hr with ⟨k, h⟩ | h | h <;> cases h
  · rintro ⟨r, a, b, h, _⟩
    cases h
  · intro j hj o ho n hn
    obtain rfl : j = 0 := by omega
    cases ho
    rcases hn with ⟨k, h, hk, _⟩ | ⟨h, _⟩ | ⟨h, _⟩ <;> cases h
    omega
  all_goals
    intro o ho n hn
    simp only [List.mem_cons, List.not_mem_nil, or_false] at ho
    rcases ho with rfl | rfl <;> rcases hn with ⟨k, h, hk, _⟩ | ⟨h, _⟩ | ⟨h, _⟩ <;> cases h
    omega

theorem witness_FirstFailingIndexRefusesProgram :
    (decodeItem (xlen := 32) 8 0 (.word (bits 0x0)) = .ok .nop ∧
      decodeItem (xlen := 32) 8 1 (.word (bits 0xe))
        = .error { kind := .unknownOpcode, idx := 1, info := .opcode (.code 14), cycle := none }) ∧
    (∀ j < 2, decodeItem (xlen := 32) 8 j (.word (bits 0x0)) = .ok .nop) := by decide

/-- Initial memory that gives each address one value. -/
theorem witness_ResetGivesEveryItemItsValue :
    let inp : RunInputs := { RunInputs.none with initMem := [(63, 9), (0, 1)] }
    (inp.initMem.map (·.1)).Nodup ∧ inp.initMem.lookup 63 = some 9 ∧ inp.initMem.lookup 5 = none := by decide

/-- Inputs of a run with a refused program and memory given at the highest address. -/
theorem witness_ResetFromLegalInputsIsSafe :
    let inp : RunInputs := { RunInputs.none with prog := [.word (bits 0x30)], initMem := [(63, 9), (0, 1), (63, 8)] }
    inp.params.wf = true ∧ progLenOk 32 inp.prog.length = true ∧
    inp.initMem.all (fun c => decide (c.1 < inp.params.memSize)) = true := by decide

/-- PC at the last index of the program; PC just past it and PC negative; `fetch_en` 0. -/
theorem witness_FetchLoadsInstructionAtPC :
    (let s := alone (encode 32 .nop)
     s.signals.fetchEn = true ∧ 0 ≤ sx s.pc ∧ sx s.pc < s.prog.length ∧
     s.prog[(sx s.pc).toNat]? = some (.word 0) ∧ decodeItem (xlen := 32) s.params.numRegs (sx s.pc).toNat (.word 0) = .ok .nop ∧
     progLenOk 32 s.prog.length = true) ∧
    (let s := (alone (encode 32 .nop)).setPc 1
     s.signals.fetchEn = true ∧ ¬ (0 ≤ sx s.pc ∧ sx s.pc < s.prog.length)) ∧
    (let s := (alone (encode 32 .nop)).setPc (-1)
     s.signals.fetchEn = true ∧ ¬ (0 ≤ sx s.pc ∧ sx s.pc < s.prog.length)) ∧
    ((alone (encode 32 .nop)).setFetchEn false).signals.fetchEn = false := by decide

/-- R300: `State.reset` is the reset with no inputs from the host. -/
theorem test_reset_is_reset_of_no_inputs :
    State.reset = resetMachine RunInputs.none { ready := false, value := 0 } := by decide

theorem witness_EveryInstructionEntersIF : CoreState.reset.signals.stage = .fetch := rfl

theorem witness_DecodeWritesResolvedEntry :
    (let s := decoding (.store 1 (.reg 6))
     targetOf (.store 1 (.reg 6)) = none ∧ s.signals.stage = .decode ∧
     s.ifL = some { idx := 0, instr := .store 1 (.reg 6) } ∧
     resolveAll (srcsOf (.store 1 (.reg 6))) s = .values [10, 63]) ∧
    (targetOf .nop = none ∧ resolveAll (srcsOf .nop) (decoding .nop) = .values []) := by decide

theorem witness_LoadUseHazardStalls :
    let s := { decoding (.add 2 (.reg 1) (.imm 1)) with exL := some (exOf (.load 1 (.imm 0)) (some 0) none) }
    targetOf (.add 2 (.reg 1) (.imm 1)) = none ∧ s.signals.stage = .decode ∧
    s.ifL = some { idx := 0, instr := .add 2 (.reg 1) (.imm 1) } ∧
    resolveAll (srcsOf (.add 2 (.reg 1) (.imm 1))) s = .stall := by decide

/-- Each check of the resolution in turn: a writer of R1 in WB; in MEM behind no writer in WB; a LOAD and a MOV in EX
behind no older writer; none in flight. -/
theorem witness_OperandResolutionOrder :
    (exOf (.mov 1 (.imm 2)) (some 2) none).dest = some 1 ∧ (exOf (.mov 1 (.imm 2)) (some 2) none).result = some 2 ∧
    (exOf (.load 1 (.imm 2)) (some 2) none).dest = some 1 ∧
    (exOf (.load 1 (.imm 2)) (some 2) none).instr.opcode = .load ∧
    (exOf (.mov 1 (.imm 2)) (some 2) none).instr.opcode ≠ .load ∧
    noWriter (xlen := 32) 1 none ∧ noWriter (xlen := 32) 1 (some (exOf (.mov 2 (.imm 3)) (some 3) none)) ∧ regs0[1]? = some 10 := by
  refine ⟨rfl, rfl, rfl, rfl, by decide, fun e h => (nomatch h), ?_, rfl⟩
  intro e h
  cases h
  decide

theorem witness_BranchResolutionInDecode :
    (decoding (.jz 9)).signals.stage = .decode ∧ (decoding (.jz 9)).ifL = some { idx := 0, instr := .jz 9 } ∧
    (decoding (.jz 9)).z = false ∧ ({ decoding (.jz 9) with z := true } : Core).z = true := by decide

theorem witness_ArithmeticExecutesResultAndZ :
    (executing (.add 3 (.reg 1) (.reg 2)) [10, 5]).signals.stage = .execute ∧
    (executing (.add 3 (.reg 1) (.reg 2)) [10, 5]).idL = some (idOf (.add 3 (.reg 1) (.reg 2)) [10, 5]) ∧
    (idOf (.add 3 (.reg 1) (.reg 2)) [10, 5]).vals = [10, 5] := by decide

/-- Amounts 0, XLEN - 1 and XLEN. -/
theorem witness_ShiftExecutesResultAndZ :
    (executing (.shl 3 (.reg 1) (.reg 2)) [10, 32]).signals.stage = .execute ∧
    (executing (.shl 3 (.reg 1) (.reg 2)) [10, 32]).idL = some (idOf (.shl 3 (.reg 1) (.reg 2)) [10, 32]) ∧
    (idOf (.shl 3 (.reg 1) (.reg 2)) [10, 32]).vals = [10, 32] ∧
    0 ≤ sx (0 : Word 32) ∧ 0 ≤ sx (31 : Word 32) ∧ 0 ≤ sx (32 : Word 32) ∧ (32 : Int) ≤ sx (32 : Word 32) := by decide

/-- The highest and the lowest negative amount. -/
theorem witness_NegativeShiftRaises :
    (executing (.shl 3 (.reg 1) (.reg 4)) [10, -1]).signals.stage = .execute ∧
    (executing (.shl 3 (.reg 1) (.reg 4)) [10, -1]).idL = some (idOf (.shl 3 (.reg 1) (.reg 4)) [10, -1]) ∧
    (idOf (.shl 3 (.reg 1) (.reg 4)) [10, -1]).vals = [10, -1] ∧ sx (-1 : Word 32) < 0 ∧ sx (0x80000000 : Word 32) < 0 := by decide

theorem witness_DataMovementExecutesWithoutZ :
    (executing (.mov 1 (.imm 5)) [5]).signals.stage = .execute ∧
    (executing (.mov 1 (.imm 5)) [5]).idL = some (idOf (.mov 1 (.imm 5)) [5]) ∧ (idOf (.mov 1 (.imm 5)) [5]).vals = [5] ∧
    (executing (.store 1 (.reg 6)) [10, 63]).idL = some (idOf (.store 1 (.reg 6)) [10, 63]) ∧
    (idOf (.store 1 (.reg 6)) [10, 63]).vals = [10, 63] := by decide

theorem witness_CompareExecutesEquality :
    (executing (.cmp (.reg 1) (.imm 5)) [10, 5]).signals.stage = .execute ∧
    (executing (.cmp (.reg 1) (.imm 5)) [10, 5]).idL = some (idOf (.cmp (.reg 1) (.imm 5)) [10, 5]) ∧
    (idOf (.cmp (.reg 1) (.imm 5)) [10, 5]).vals = [10, 5] := by decide

theorem witness_NopAndPassedBranchExecuteNothing :
    (executing (.jz 3) []).signals.stage = .execute ∧ (executing (.jz 3) []).idL = some (idOf (.jz 3) []) := by decide

theorem witness_MemoryAccessPassesOthersThrough :
    Instr.opcode (.mov 1 (.imm 5)) ≠ .load ∧ Instr.opcode (.mov 1 (.imm 5)) ≠ .store ∧
    (accessing (.mov 1 (.imm 5)) (some 5) none).signals.stage = .memoryAccess ∧
    (accessing (.mov 1 (.imm 5)) (some 5) none).exL = some (exOf (.mov 1 (.imm 5)) (some 5) none) := by decide

/-- A miss at the highest address, on an invalid line and on a line of another tag; a hit at address 5. -/
theorem witness_LoadReadsThroughCache :
    (let s := accessing (.load 2 (.reg 6)) (some 63) none
     s.signals.stage = .memoryAccess ∧ s.exL = some (exOf (.load 2 (.reg 6)) (some 63) none) ∧
     0 ≤ sx (63 : Word 32) ∧ sx (63 : Word 32) < s.params.memSize ∧ 0 < s.params.blockSize ∧
     s.cache[(sx (63 : Word 32)).toNat / s.params.blockSize % s.params.numLines]? = some (resetLine s.params) ∧
     (resetLine s.params).valid = false) ∧
    (let s := { accessing (.load 2 (.imm 5)) (some 5) none with cache := busy.cache }
     let line : Line 32 := { valid := true, tag := 0, data := [44, 55, 0, 0] }
     s.cache[(sx (5 : Word 32)).toNat / s.params.blockSize % s.params.numLines]? = some line ∧ line.valid = true ∧
     line.tag = (sx (5 : Word 32)).toNat / (s.params.blockSize * s.params.numLines) ∧
     line.data[(sx (5 : Word 32)).toNat % s.params.blockSize]? = some 55 ∧
     s.cache[(sx (20 : Word 32)).toNat / s.params.blockSize % s.params.numLines]? = some line ∧
     line.tag ≠ (sx (20 : Word 32)).toNat / (s.params.blockSize * s.params.numLines)) := by decide

theorem witness_StoreWritesThroughCache :
    (let s := accessing (.store 1 (.imm 0)) (some 0) (some 10)
     s.signals.stage = .memoryAccess ∧ s.exL = some (exOf (.store 1 (.imm 0)) (some 0) (some 10)) ∧
     0 ≤ sx (0 : Word 32) ∧ sx (0 : Word 32) < s.params.memSize ∧ s.main.wf = true ∧
     s.cache[(sx (0 : Word 32)).toNat / s.params.blockSize % s.params.numLines]? = some (resetLine s.params) ∧
     ¬ ((resetLine s.params).valid = true ∧ (resetLine s.params).tag = 0)) ∧
    (let s := { accessing (.store 1 (.imm 5)) (some 5) (some 10) with cache := busy.cache }
     let line : Line 32 := { valid := true, tag := 0, data := [44, 55, 0, 0] }
     s.cache[(sx (5 : Word 32)).toNat / s.params.blockSize % s.params.numLines]? = some line ∧ line.valid = true ∧
     line.tag = (sx (5 : Word 32)).toNat / (s.params.blockSize * s.params.numLines)) := by decide

/-- The addresses just outside the memory on both sides. -/
theorem witness_AddressOutOfRangeRaises :
    (let s := accessing (.store 1 (.reg 7)) (some 64) (some 10)
     s.signals.stage = .memoryAccess ∧ s.exL = some (exOf (.store 1 (.reg 7)) (some 64) (some 10)) ∧
     s.params.memSize ≤ sx (64 : Word 32) ∧ (exOf (.store 1 (.reg 7)) (some 64) (some 10)).sval = some 10) ∧
    (accessing (.load 1 (.reg 4)) (some (-1)) none).exL = some (exOf (.load 1 (.reg 4)) (some (-1)) none) ∧
    sx (-1 : Word 32) < 0 := by decide

theorem witness_WriteBackCommitsDestination :
    (let s := committing (.mov 7 (.imm 5)) (some 5)
     s.signals.stage = .writeBack ∧ s.memL = some (exOf (.mov 7 (.imm 5)) (some 5) none) ∧
     destOf (.mov 7 (.imm 5)) ≠ none ∧ (exOf (.mov 7 (.imm 5)) (some 5) none).dest = some 7 ∧
     (exOf (.mov 7 (.imm 5)) (some 5) none).result = some 5 ∧ 7 < s.regs.length) ∧
    ((committing .nop none).memL = some (exOf .nop none none) ∧ destOf .nop = none) ∧ CoreState.reset.memL = none := by decide

theorem witness_EmptyLatchesPropagate :
    CoreState.reset.memL = none ∧ CoreState.reset.exL = none ∧ CoreState.reset.idL = none ∧ CoreState.reset.ifL = none := by decide

/-- The state of an outcome that answers. -/
def stateOf (o : Result) : Core := (shows id o).getD CoreState.reset

/-- The states the stages of one cycle of `busy` leave. -/
def busyWB : Core := stateOf (exec (.mov 1 (.imm 2)) ⟨_, (hostAction busy).atStage .writeBack⟩)
def busyMEM : Core := stateOf (exec (.add 2 (.reg 1) (.imm 1)) ⟨_, busyWB.atStage .memoryAccess⟩)
def busyEX : Core := stateOf (exec (.cmp (.reg 1) (.imm 2)) ⟨_, busyMEM.atStage .execute⟩)
def busyID : Core := stateOf (exec (.store 1 (.imm 5)) ⟨_, (busyEX.setFetchEn true).atStage .decode⟩)

/-- Four instructions in flight, each of which answers in its stage. -/
theorem witness_StepRunsInstructionsInFlight :
    runsStages busy = true ∧
    runsOrBubbles (busy.memL.map (·.instr)) (fun i => exec i ⟨_, (hostAction busy).atStage .writeBack⟩)
      ((hostAction busy).setWB none) busyWB ∧
    runsOrBubbles (busy.exL.map (·.instr)) (fun i => exec i ⟨_, busyWB.atStage .memoryAccess⟩) (busyWB.setMEM none) busyMEM ∧
    runsOrBubbles (busy.idL.map (·.instr)) (fun i => exec i ⟨_, busyMEM.atStage .execute⟩) (busyMEM.setEX none) busyEX ∧
    runsOrBubbles (busy.ifL.map (·.instr)) (fun i => exec i ⟨_, (busyEX.setFetchEn true).atStage .decode⟩)
      ((busyEX.setFetchEn true).setID none) busyID ∧
    fetchStage busyID = .next ⟨_, busyID.setIF none⟩ := by
  refine ⟨by decide, ⟨fun i h => ?_, fun h => nomatch h⟩, ⟨fun i h => ?_, fun h => nomatch h⟩,
    ⟨fun i h => ?_, fun h => nomatch h⟩, ⟨fun i h => ?_, fun h => nomatch h⟩, rfl⟩
  all_goals
    cases h
    rfl

theorem witness_StepExecutesDecodedInstruction :
    let s := alone (bits 0x140000000496)
    isDrained s = true ∧ runsStages s = true ∧ 0 ≤ sx s.pc ∧ sx s.pc < s.prog.length ∧
    s.prog[(sx s.pc).toNat]? = some (.word (bits 0x140000000496)) ∧
    decodeItem (xlen := 32) s.params.numRegs (sx s.pc).toNat (.word (bits 0x140000000496)) = .ok (.mov 1 (.imm 5)) ∧
    Instr.wf 32 s.params.numRegs (.mov 1 (.imm 5)) = true := by decide

/-- A device made ready by the schedule, with four instructions in flight. -/
theorem witness_InterruptCycleNetEffect :
    let s : Core := { busy with triggers := [(4, 77)] }
    s.status = .running ∧ isDone (hostAction s) = false ∧ isCapped (hostAction s) = false ∧
    (hostAction s).dev.ready = true ∧ s.istate = { mode := .normal, savedPC := none } ∧
    s.params.sentinelReg < s.regs.length := by decide

theorem witness_NegativeShiftEndsRun : ∃ s₁ s₂ : Core,
    (let s : Core := { busy with idL := some (idOf (.shl 3 (.reg 1) (.reg 4)) [10, -1]) }
     runsStages s = true ∧ writeBackStage (hostAction s) = .next ⟨_, s₁⟩ ∧ memoryStage s₁ = .next ⟨_, s₂⟩ ∧
     s.idL = some (idOf (.shl 3 (.reg 1) (.reg 4)) [10, -1]) ∧
     (idOf (.shl 3 (.reg 1) (.reg 4)) [10, -1]).vals = [10, -1] ∧ sx (-1 : Word 32) < 0) :=
  ⟨_, _, by decide, rfl, rfl, rfl, rfl, by decide⟩

theorem witness_AddressOutOfRangeEndsRun : ∃ s₁ s₂ : Core,
    (let s : Core := { busy with exL := some (exOf (.load 3 (.reg 4)) (some (-1)) none) }
     runsStages s = true ∧ writeBackStage (hostAction s) = .next ⟨_, s₁⟩ ∧
     s.exL = some (exOf (.load 3 (.reg 4)) (some (-1)) none) ∧ sx (-1 : Word 32) < 0) ∧
    (let s : Core := { busy with exL := some (exOf (.store 3 (.reg 7)) (some 64) (some 1)) }
     runsStages s = true ∧ writeBackStage (hostAction s) = .next ⟨_, s₂⟩ ∧
     s.exL = some (exOf (.store 3 (.reg 7)) (some 64) (some 1)) ∧
     (exOf (.store 3 (.reg 7)) (some 64) (some 1)).sval.isSome = true ∧ s.params.memSize ≤ sx (64 : Word 32)) :=
  ⟨_, _, ⟨by decide, rfl, rfl, by decide⟩, by decide, rfl, rfl, rfl, by decide⟩

theorem witness_RunEndsDoneBeforeCapped :
    (CoreState.reset.status = .running ∧ isDone (hostAction CoreState.reset) = true) ∧
    (let u := hostAction { alone 0 with maxCycles := 0 }
     0 ≤ sx u.pc ∧ sx u.pc < u.prog.length ∧ u.maxCycles ≤ u.metrics.cycles ∧ u.status = .running) := by decide

theorem witness_TicksAfterTheEndChangeNothing : (CoreState.reset.setStatus .done).status ≠ .running := by decide

theorem witness_RefusedProgramRunsNoCycle :
    firstStaticFault (xlen := 32) 8 0 [.word (bits 0x0), .word (bits 0x30)]
      = some { kind := .malformedOperands, idx := 1, info := .nothing, cycle := none } := by decide

theorem witness_ProgramAndParametersAreFixed : ∃ t : Core, step ⟨_, busy⟩ = .next ⟨_, t⟩ ∧ t.status = .running :=
  shows_next (f := (·.status)) (by decide)

theorem witness_ZeroFlagHasOneWriter : ∃ t : Core, step ⟨_, busy⟩ = .next ⟨_, t⟩ ∧ t.z = !busy.z :=
  shows_next (f := (·.z)) (by decide)

theorem witness_RegistersHaveTwoWriters :
    (∃ t : Core, step ⟨_, busy⟩ = .next ⟨_, t⟩ ∧ (t.regs[1]?, busy.regs[1]?) = (some 2, some 10)) ∧
    (∃ t : Core, step ⟨_, { busy with triggers := [(4, 77)] }⟩ = .next ⟨_, t⟩ ∧ (t.regs[7]?, busy.regs[7]?) = (some 999, some 64)) :=
  ⟨shows_next (f := fun t => (t.regs[1]?, busy.regs[1]?)) (by decide),
   shows_next (f := fun t => (t.regs[7]?, busy.regs[7]?)) (by decide)⟩

theorem witness_PcAndMainHaveFewWriters :
    ∃ t : Core, step ⟨_, { busy with exL := some (exOf (.store 1 (.imm 5)) (some 5) (some 10)) }⟩ = .next ⟨_, t⟩ ∧
      decide (t.main ≠ busy.main) = true :=
  shows_next (f := fun t => decide (t.main ≠ busy.main)) (by decide)

theorem witness_LatchesAdvanceOneStage :
    runsStages busy = true ∧ ∃ t : Core, step ⟨_, busy⟩ = .next ⟨_, t⟩ ∧ t.status = .running :=
  ⟨by decide, shows_next (f := (·.status)) (by decide)⟩

/-- A load-use pair: LOAD in ID, its reader in IF; a trigger comes in the cycle after the stall. -/
def loadUse (triggers : List (Nat × Word 32)) : Core :=
  { decoding (.add 2 (.reg 1) (.imm 1)) with exL := none, idL := some (idOf (.load 1 (.imm 0)) [0]), triggers := triggers }

/-- The step counts a stall, and the step after it answers; with the trigger, an interrupt cycle stands between them. -/
theorem witness_OneStallPerLoadUse :
    (∃ t : Core, step ⟨_, loadUse []⟩ = .next ⟨_, t⟩ ∧
      (t.metrics.stalls, shows (·.metrics.stalls) (step ⟨_, t⟩)) = (1, some 1)) ∧
    (∃ t : Core, step ⟨_, loadUse [(1, 5)]⟩ = .next ⟨_, t⟩ ∧
      (t.metrics.stalls, t.metrics.interrupts, shows (·.metrics.interrupts) (runSteps 1 ⟨_, t⟩),
        shows (·.metrics.stalls) (runSteps 2 ⟨_, t⟩)) = (1, 0, some 1, some 1)) :=
  ⟨shows_next (f := fun t => (t.metrics.stalls, shows (·.metrics.stalls) (step ⟨_, t⟩))) (by decide),
   shows_next (f := fun t => (t.metrics.stalls, t.metrics.interrupts, shows (·.metrics.interrupts) (runSteps 1 ⟨_, t⟩),
     shows (·.metrics.stalls) (runSteps 2 ⟨_, t⟩))) (by decide)⟩

/-- MOV R1,2 in EX, MOV R1,3 in ID, MOV R2,R1 in IF. -/
theorem witness_OldestWriterWins :
    let s : Core := { busy with
      memL := none, exL := some (exOf (.mov 1 (.imm 2)) (some 2) none), idL := some (idOf (.mov 1 (.imm 3)) [3]),
      ifL := some { idx := 3, instr := .mov 2 (.reg 1) } }
    runsStages s = true ∧ (∃ t : Core, step ⟨_, s⟩ = .next ⟨_, t⟩ ∧ t.status = .running) ∧ noWriter 1 s.memL ∧
    (exOf (.mov 1 (.imm 2)) (some 2) none).dest = some 1 ∧ (exOf (.mov 1 (.imm 2)) (some 2) none).result = some 2 ∧
    (idOf (.mov 1 (.imm 3)) [3]).dest = some 1 :=
  ⟨by decide, shows_next (f := (·.status)) (by decide), fun e h => (nomatch h), rfl, rfl, rfl⟩

/-- CMP of equal words before JZ, of unequal words before JNZ, and each the other way. -/
theorem witness_BranchReadsFlagOfSameCycle :
    (∀ z ∈ [[2, 2], [2, 3]], ∀ i ∈ [Instr.jz 9, .jnz 9, .je 9],
      let s : Core := { busy with
        idL := some (idOf (.cmp (.reg 1) (.imm 2)) z), ifL := some { idx := 3, instr := i } }
      runsStages s = true ∧ shows (·.status) (step ⟨_, s⟩) = some .running ∧
      (idOf (.cmp (.reg 1) (.imm 2)) z).vals = z) := by decide

/-- A branch in IF behind CMP R1,2 of equal or of unequal words, with two older instructions in flight. -/
def jumping (i : Instr) (vals : List (Word 32)) : Core :=
  { busy with idL := some (idOf (.cmp (.reg 1) (.imm 2)) vals), ifL := some { idx := 3, instr := i } }

/-- A step that runs the stages, then another, and the flag between them. -/
def runsTwice (s : Core) : Option Bool :=
  if runsStages s then
    (shows (fun t => (t.z, runsStages t && decide (shows (·.status) (step ⟨_, t⟩) = some .running))) (step ⟨_, s⟩)).bind
      (fun r => if r.2 then some r.1 else none)
  else none

/-- JMP to the last index of the program, whose element decodes, and to the index after it; JZ and JE behind equal words,
JNZ behind unequal ones. -/
theorem witness_TargetIsFetchedNextCycle :
    (runsTwice (jumping (.jmp 3) [2, 2])).isSome ∧ (runsTwice (jumping (.jmp 4) [2, 2])).isSome ∧
    runsTwice (jumping (.jz 3) [2, 2]) = some true ∧ runsTwice (jumping (.je 3) [2, 2]) = some true ∧
    runsTwice (jumping (.jnz 3) [2, 3]) = some false ∧
    busy.prog[3]? = some (.word (encode 32 (.store 1 (.imm 5)))) ∧
    decodeItem (xlen := 32) 8 3 (.word (encode 32 (.store 1 (.imm 5)))) = .ok (.store 1 (.imm 5)) :=
  ⟨by decide, by decide, by decide, by decide, by decide, by decide, by decide⟩

theorem witness_CacheAddressRoundTrips : 0 < Params.test.blockSize ∧ 0 < Params.test.numLines := by decide

theorem witness_ReadsReturnMain :
    busy.params.wf = true ∧ busy.cache.length = busy.params.numLines ∧ Transparent busy := by decide

theorem witness_CacheKeepsWhatWasAccessed :
    busy.params.wf = true ∧ storageFits busy = true ∧ Transparent busy := by decide

theorem witness_MainStaysCanonical :
    (let s : Core := { busy with exL := some (exOf (.store 1 (.imm 5)) (some 5) (some 0)) }
     s.main.wf = true ∧ ∃ t : Core, step ⟨_, s⟩ = .next ⟨_, t⟩ ∧ t.main = [(4, 44)]) :=
  ⟨by decide, shows_next (f := (·.main)) (by decide)⟩

theorem witness_ControllerRestsBetweenCycles :
    busy.istate = { mode := .normal, savedPC := none } ∧
    ∃ t : Core, step ⟨_, { busy with triggers := [(4, 77)] }⟩ = .next ⟨_, t⟩ ∧ t.metrics.interrupts = 1 :=
  ⟨by decide, shows_next (f := (·.metrics.interrupts)) (by decide)⟩

theorem witness_CountersStayBounded :
    countersBounded busy = true ∧ ∃ t : Core, step ⟨_, busy⟩ = .next ⟨_, t⟩ ∧ t.metrics.cycles = 5 :=
  ⟨by decide, shows_next (f := (·.metrics.cycles)) (by decide)⟩

theorem witness_WellFormedStateStaysWellFormed :
    busy.wf = true ∧ ∃ t : Core, step ⟨_, busy⟩ = .next ⟨_, t⟩ ∧ t.status = .running :=
  ⟨by decide, shows_next (f := (·.status)) (by decide)⟩

theorem witness_WellFormedStateAlwaysSteps : busy.wf = true := by decide

theorem witness_CacheStaysTransparent :
    busy.wf = true ∧ Transparent busy ∧ ∃ t : Core, step ⟨_, busy⟩ = .next ⟨_, t⟩ ∧ t.status = .running :=
  ⟨by decide, by decide, shows_next (f := (·.status)) (by decide)⟩

theorem witness_ArithmeticPassesThePipeline :
    2 ≤ testXLEN ∧ (∀ i ∈ [Instr.add 7 (.reg 1) (.imm 5), .sub 7 (.reg 1) (.imm 5), .mul 7 (.reg 1) (.imm 5), .and 7 (.reg 1) (.imm 5),
        .shl 7 (.reg 1) (.imm 5)], startsAlone (before i false) i = true ∧ 7 < (before i false).regs.length ∧
        archValue (before i false) (.reg 1) = some 10 ∧ archValue (before i false) (.imm 5) = some 5) ∧ 0 ≤ sx (5 : Word 32) := by
  decide

/-- LOAD at both ends of the memory; the parameters, the cache and Main of `before` do not depend on its instruction. -/
theorem witness_MovAndLoadPassThePipeline :
    startsAlone (before (.mov 7 (.reg 1)) false) (.mov 7 (.reg 1)) = true ∧
    startsAlone (before (.load 7 (.reg 0)) false) (.load 7 (.reg 0)) = true ∧
    startsAlone (before (.load 7 (.reg 6)) false) (.load 7 (.reg 6)) = true ∧
    7 < regs0.length ∧ (before .nop false).params.wf = true ∧
    (before .nop false).cache.length = (before .nop false).params.numLines ∧ Transparent (before .nop false) ∧
    archValue (before (.load 7 (.reg 0)) false) (.reg 0) = some 0 ∧
    archValue (before (.load 7 (.reg 6)) false) (.reg 6) = some 63 ∧ 0 ≤ sx (0 : Word 32) ∧ sx (63 : Word 32) < 64 := by decide

theorem witness_StorePassesThePipeline :
    ∀ i ∈ [Instr.store 1 (.reg 0), .store 1 (.reg 6)],
      startsAlone (before i false) i = true ∧ (before i false).regs[1]? = some 10 ∧
      archValue (before i false) (.reg 0) = some 0 ∧ archValue (before i false) (.reg 6) = some 63 ∧ 0 ≤ sx (0 : Word 32) ∧
      sx (63 : Word 32) < (before i false).params.memSize ∧ (before i false).main.wf = true := by decide

theorem witness_CompareNopAndPassedBranchPassThePipeline :
    startsAlone (before (.cmp (.reg 1) (.imm 10)) false) (.cmp (.reg 1) (.imm 10)) = true ∧
    startsAlone (before .nop false) .nop = true ∧ startsAlone (before (.jz 9) false) (.jz 9) = true ∧
    startsAlone (before (.je 9) false) (.je 9) = true ∧ startsAlone (before (.jnz 9) true) (.jnz 9) = true := by decide

theorem witness_TakenBranchPassesThePipeline :
    startsAlone (before (.jmp (-1)) false) (.jmp (-1)) = true ∧ startsAlone (before (.jz 9) true) (.jz 9) = true ∧
    startsAlone (before (.je 9) true) (.je 9) = true ∧ startsAlone (before (.jnz 9) false) (.jnz 9) = true := by decide

end Sys2Proof.Tests
end

/-! The instructions static validation accepts are well formed (30_encoding.md R109 to R111). -/

namespace Sys2Proof

open Sys2Proof.Machine

variable {xlen : Nat}

/-- No check of R111 refuses the operand: it names no missing register and no immediate out of range. -/
def RawOperand.passes (xlen numRegs : Nat) (o : RawOperand) : Prop :=
  badRegister numRegs o = none ∧ badImmediate xlen o = none

theorem RawOperand.passes_reg {numRegs k : Nat} : (RawOperand.reg k).passes xlen numRegs ↔ k < numRegs := by
  simp [RawOperand.passes, badRegister, badImmediate]

theorem RawOperand.passes_imm {numRegs : Nat} {v : Int} :
    (RawOperand.imm v).passes xlen numRegs ↔ inSignedRange xlen v = true := by
  cases h : inSignedRange xlen v <;> simp [RawOperand.passes, badRegister, badImmediate, immediateInRange, h]

theorem firstBadRegister_eq_none {numRegs : Nat} {os : List RawOperand} :
    ∀ {pos : Nat}, firstBadRegister numRegs pos os = none ↔ ∀ o ∈ os, badRegister numRegs o = none := by
  induction os with
  | nil => simp [firstBadRegister]
  | cons o os ih =>
    intro pos
    cases hb : badRegister numRegs o <;> simp [firstBadRegister, hb, ih]

theorem firstBadImmediate_eq_none {os : List RawOperand} :
    ∀ {pos : Nat}, firstBadImmediate xlen pos os = none ↔ ∀ o ∈ os, badImmediate xlen o = none := by
  induction os with
  | nil => simp [firstBadImmediate]
  | cons o os ih =>
    intro pos
    cases hb : badImmediate xlen o <;> simp [firstBadImmediate, hb, ih]

/-- The validated form of an operand that passes is well formed. -/
theorem RawOperand.toOperand_wf {numRegs : Nat} {o : RawOperand} {p : Operand} (h : o.toOperand = some p)
    (ho : o.passes xlen numRegs) : p.wf xlen numRegs = true := by
  cases o with
  | reg k =>
    cases h
    simpa [Operand.wf] using passes_reg.mp ho
  | imm v =>
    cases h
    exact passes_imm.mp ho
  | pc => cases h
  | zFlag => cases h
  | unreadable text => cases h

/-! ### What the builders make of operands that pass -/

section Builders

variable {numRegs : Nat} {os : List RawOperand} {i : Instr}

theorem build3_wf {f : Nat → Operand → Operand → Instr} (h : build3 f os = some i)
    (hos : ∀ o ∈ os, o.passes xlen numRegs) :
    ∃ rd a b, i = f rd a b ∧ rd < numRegs ∧ a.wf xlen numRegs = true ∧ b.wf xlen numRegs = true := by
  unfold build3 at h
  split at h
  · rename_i rd a b
    split at h
    · rename_i a' b' ha hb
      cases h
      simp only [List.forall_mem_cons] at hos
      obtain ⟨hrd, hpa, hpb, -⟩ := hos
      exact ⟨rd, a', b', rfl, RawOperand.passes_reg.mp hrd, a.toOperand_wf ha hpa, b.toOperand_wf hb hpb⟩
    · cases h
  · cases h

theorem build2_wf {f : Nat → Operand → Instr} (h : build2 f os = some i) (hos : ∀ o ∈ os, o.passes xlen numRegs) :
    ∃ rd a, i = f rd a ∧ rd < numRegs ∧ a.wf xlen numRegs = true := by
  unfold build2 at h
  split at h
  · rename_i rd a
    split at h
    · rename_i a' ha
      cases h
      simp only [List.forall_mem_cons] at hos
      obtain ⟨hrd, hpa, -⟩ := hos
      exact ⟨rd, a', rfl, RawOperand.passes_reg.mp hrd, a.toOperand_wf ha hpa⟩
    · cases h
  · cases h

theorem buildCompare_wf {f : Operand → Operand → Instr} (h : buildCompare f os = some i)
    (hos : ∀ o ∈ os, o.passes xlen numRegs) :
    ∃ a b, i = f a b ∧ a.wf xlen numRegs = true ∧ b.wf xlen numRegs = true := by
  unfold buildCompare at h
  split at h
  · rename_i a b
    split at h
    · rename_i a' b' ha hb
      cases h
      simp only [List.forall_mem_cons] at hos
      obtain ⟨hpa, hpb, -⟩ := hos
      exact ⟨a', b', rfl, a.toOperand_wf ha hpa, b.toOperand_wf hb hpb⟩
    · cases h
  · cases h

theorem buildBranch_wf {f : Int → Instr} (h : buildBranch f os = some i) (hos : ∀ o ∈ os, o.passes xlen numRegs) :
    ∃ t, i = f t ∧ inSignedRange xlen t = true := by
  unfold buildBranch at h
  split at h
  · rename_i t
    cases h
    exact ⟨t, rfl, RawOperand.passes_imm.mp (hos _ (List.mem_singleton_self _))⟩
  · cases h

/-- The instruction built from operands that pass is well formed. -/
theorem build_wf {op : Opcode} (h : build op os = some i) (hos : ∀ o ∈ os, o.passes xlen numRegs) :
    i.wf xlen numRegs = true := by
  cases op
  case nop =>
    simp only [build, Option.ite_none_right_eq_some, Option.some.injEq] at h
    obtain ⟨-, rfl⟩ := h
    rfl
  case add | sub | mul | and | shl =>
    obtain ⟨rd, a, b, rfl, hrd, ha, hb⟩ := build3_wf h hos
    simp [Instr.wf, hrd, ha, hb]
  case mov | load | store =>
    obtain ⟨rd, a, rfl, hrd, ha⟩ := build2_wf h hos
    simp [Instr.wf, hrd, ha]
  case cmp =>
    obtain ⟨a, b, rfl, ha, hb⟩ := buildCompare_wf h hos
    simp [Instr.wf, ha, hb]
  case jmp | jz | jnz | je =>
    obtain ⟨t, rfl, ht⟩ := buildBranch_wf h hos
    exact ht

/-- An accepted operand list passes every check and is what the instruction is built from. -/
theorem validateOperands_ok {idx : Nat} {op : Opcode} (h : validateOperands xlen numRegs idx op os = .ok i) :
    (∀ o ∈ os, o.passes xlen numRegs) ∧ build op os = some i := by
  unfold validateOperands at h
  split at h
  · split at h
    · cases h
    · rename_i hr
      split at h
      · cases h
      · rename_i hm
        split at h
        · rename_i j hb
          cases h
          exact ⟨fun o ho => ⟨firstBadRegister_eq_none.mp hr o ho, firstBadImmediate_eq_none.mp hm o ho⟩, hb⟩
        · cases h
  · cases h

theorem validateOperands_wf {idx : Nat} {op : Opcode} (h : validateOperands xlen numRegs idx op os = .ok i) :
    i.wf xlen numRegs = true := by
  obtain ⟨hos, hb⟩ := validateOperands_ok h
  exact build_wf hb hos

end Builders

/-- Every program element that decodes, a record word or a record, decodes to a well-formed instruction. -/
theorem decodeItem_wf {numRegs idx : Nat} {p : ProgItem xlen} {i : Instr} (h : decodeItem numRegs idx p = .ok i) :
    i.wf xlen numRegs = true := by
  cases p with
  | word w =>
    simp only [decodeItem, decodeWord] at h
    split at h
    · cases h
    · split at h
      · cases h
      · exact validateOperands_wf h
  | record r =>
    simp only [decodeItem, validateRecord] at h
    split at h
    · cases h
    · exact validateOperands_wf h

end Sys2Proof

/-! A well-formed state stays well formed: the shape of a state inside a cycle, what keeps it at each state operation and
at each stage function, and the step. -/

namespace Sys2Proof.Machine

open Sys2Proof

variable {xlen : Nat}

/-! ### The shape of a state inside a cycle -/

/-- The parts of `CoreState.wf` with a name each, less the signals at rest: what holds inside a cycle too. -/
structure CoreState.Fits (s : CoreState xlen) : Prop where
  params : s.params.wf = true
  program : programFits s = true
  regs : s.regs.length = s.params.numRegs
  cache : s.cache.length = s.params.numLines
  lines : ∀ l ∈ s.cache, l.data.length = s.params.blockSize
  main : s.main.wf = true
  addresses : addressesBelow s.params.memSize s.main = true
  ifL : ∀ f, s.ifL = some f → ifFits s f = true
  idL : ∀ d, s.idL = some d → idFits s d = true
  exL : ∀ e, s.exL = some e → exFits s e = true
  memL : ∀ e, s.memL = some e → exFits s e = true
  wbL : ∀ e, s.wbL = some e → exFits s e = true
  istate : s.istate = { mode := .normal, savedPC := none }

theorem storageFits_iff (s : CoreState xlen) : storageFits s = true ↔ s.regs.length = s.params.numRegs ∧
    s.cache.length = s.params.numLines ∧ (∀ l ∈ s.cache, l.data.length = s.params.blockSize) ∧ s.main.wf = true ∧
    addressesBelow s.params.memSize s.main = true := by
  simp [storageFits, and_assoc]

theorem latchesFit_iff (s : CoreState xlen) : latchesFit s = true ↔ (∀ f, s.ifL = some f → ifFits s f = true) ∧
    (∀ d, s.idL = some d → idFits s d = true) ∧ (∀ e, s.exL = some e → exFits s e = true) ∧
    (∀ e, s.memL = some e → exFits s e = true) ∧ (∀ e, s.wbL = some e → exFits s e = true) := by
  simp [latchesFit, Option.all_eq_true, and_assoc]

/-- Between cycles the well-formed states are those that fit, with the model's own signals at rest. -/
theorem CoreState.wf_iff (s : CoreState xlen) : s.wf = true ↔ s.Fits ∧ s.signals = Signals.rest := by
  simp only [CoreState.wf, Bool.and_eq_true, storageFits_iff, latchesFit_iff, controllerAtRest, decide_eq_true_eq]
  constructor
  · rintro ⟨⟨⟨⟨⟨hp, hg⟩, hr, hc, hl, hm, ha⟩, hif, hid, hex, hmem, hwb⟩, hi⟩, hs⟩
    exact ⟨⟨hp, hg, hr, hc, hl, hm, ha, hif, hid, hex, hmem, hwb, hi⟩, hs⟩
  · rintro ⟨⟨hp, hg, hr, hc, hl, hm, ha, hif, hid, hex, hmem, hwb, hi⟩, hs⟩
    exact ⟨⟨⟨⟨⟨hp, hg⟩, hr, hc, hl, hm, ha⟩, hif, hid, hex, hmem, hwb⟩, hi⟩, hs⟩

/-! ### What the latches' shapes come to -/

/-- A decoded element of the program store is what an IF entry may hold. -/
theorem fetchedFrom_of_decode {s : CoreState xlen} {idx : Nat} {p : ProgItem xlen} {i : Instr} (hp : s.prog[idx]? = some p)
    (hd : decodeItem s.params.numRegs idx p = .ok i) : fetchedFrom s idx i = true := by
  simp [fetchedFrom, hp, hd, decodeItem_wf hd]

theorem recordAtPC_eq_ok {s : CoreState xlen} {i : Instr} (h : recordAtPC s = some (.ok i)) :
    ∃ p, s.prog[ux s.pc]? = some p ∧ decodeItem s.params.numRegs (ux s.pc) p = .ok i := by
  unfold recordAtPC at h
  split at h
  · split at h
    · exact ⟨_, ‹_›, Option.some.inj h⟩
    · cases h
  · cases h

theorem isJmp_of_targetOf_none {i : Instr} (h : targetOf i = none) : isJmp i = false := by
  cases i with
  | jmp t => cases h
  | _ => rfl

/-- A branch has no destination and no source (30_encoding.md R108). -/
theorem destOf_srcsOf_of_target {i : Instr} {w : Int} (h : targetOf i = some w) : destOf i = none ∧ srcsOf i = [] := by
  cases i
  case jmp | jz | jnz | je => exact ⟨rfl, rfl⟩
  all_goals cases h

/-- The entry Decode makes of an instruction that is no branch (40_pipeline.md R135). -/
theorem idFits_decoded_sources {s : CoreState xlen} {f : IfEntry} {vs : List (Word xlen)} (hf : ifFits s f = true)
    (ht : targetOf f.instr = none) (hv : resolveAll (srcsOf f.instr) s = .values vs) :
    idFits s (decodedEntry f.idx f.instr (destOf f.instr) (srcsOf f.instr) vs none) = true := by
  have hff : fetchedFrom s f.idx f.instr = true := hf
  simp [idFits, decodedEntry, hff, ht, isJmp_of_targetOf_none ht, resolveAll_length hv]

/-- The entry Decode makes of a branch that is not taken (40_pipeline.md R142). -/
theorem idFits_decoded_branch {s : CoreState xlen} {f : IfEntry} {w : Int} (hf : ifFits s f = true)
    (ht : targetOf f.instr = some w) (hj : isJmp f.instr = false) :
    idFits s (decodedEntry f.idx f.instr none [] [] (some (word xlen w))) = true := by
  have hff : fetchedFrom s f.idx f.instr = true := hf
  obtain ⟨hd, hs⟩ := destOf_srcsOf_of_target ht
  simp [idFits, decodedEntry, hff, ht, hd, hs, hj]

/-- The entry Execute makes of an ID entry (40_pipeline.md R145). -/
theorem exFits_executed {s : CoreState xlen} {d : IdEntry xlen} {result sval : Option (Word xlen)} (hd : idFits s d = true)
    (hr : result.isSome = carriesResult d.instr) (hv : sval.isSome = isStore d.instr) :
    exFits s { idx := d.idx, instr := d.instr, dest := d.dest, result := result, sval := sval } = true := by
  simp only [idFits, Bool.and_eq_true, decide_eq_true_eq] at hd
  obtain ⟨⟨⟨⟨⟨⟨hf, hdest⟩, -⟩, -⟩, -⟩, -⟩, hj⟩ := hd
  simp [exFits, hf, hdest, hr, hv, hj]

/-- An entry with a result keeps its shape when the result becomes another word, as LOAD's does. -/
theorem exFits_with_result {s : CoreState xlen} {e : ExEntry xlen} {w v : Word xlen} (he : exFits s e = true)
    (hw : e.result = some w) : exFits s { e with result := some v } = true := by
  simpa [exFits, hw] using he

/-! ### Cache lines and addresses -/

theorem setLine_line_length {n i : Nat} {c : List (Line xlen)} {l : Line xlen} (hc : ∀ l ∈ c, l.data.length = n)
    (hl : l.data.length = n) : ∀ l' ∈ c.set i l, l'.data.length = n := by
  intro l' h
  rcases List.mem_or_eq_of_mem_set h with h | rfl
  · exact hc l' h
  · exact hl

/-- Every line of a state that fits, an absent one too, has BLOCK_SIZE words. -/
theorem CoreState.Fits.lineAt_length {s : CoreState xlen} (hs : s.Fits) (i : Nat) :
    (lineAt s i).data.length = s.params.blockSize := by
  unfold lineAt
  rw [List.getD_eq_getElem?_getD]
  cases h : s.cache[i]? with
  | none => simp [resetLine]
  | some l => exact hs.lines l (List.mem_of_getElem? h)

/-- A write adds no address but its own. -/
theorem mem_writeMain {c : Nat × Word xlen} {a : Nat} {v : Word xlen} :
    ∀ {m : Memory xlen}, c ∈ writeMain m a v → c = (a, v) ∨ c ∈ m
  | [], h => by
    unfold writeMain at h
    split at h
    · cases h
    · exact .inl (List.mem_singleton.mp h)
  | (k, u) :: m, h => by
    unfold writeMain at h
    split at h
    · split at h
      · exact .inr h
      · exact List.mem_cons.mp h
    · split at h
      · split at h
        · exact .inr (List.mem_cons_of_mem _ h)
        · exact (List.mem_cons.mp h).imp id (List.mem_cons_of_mem _)
      · rcases List.mem_cons.mp h with rfl | h
        · exact .inr List.mem_cons_self
        · exact (mem_writeMain h).imp id (List.mem_cons_of_mem _)

theorem addressesBelow_writeMain {n a : Nat} {v : Word xlen} {m : Memory xlen} (hm : addressesBelow n m = true)
    (ha : a < n) : addressesBelow n (writeMain m a v) = true := by
  simp only [addressesBelow, List.all_eq_true, decide_eq_true_eq] at hm ⊢
  intro c hc
  rcases mem_writeMain hc with rfl | hc
  · exact ha
  · exact hm c hc

theorem toNat_lt_of_addressOk {s : CoreState xlen} {a : Int} (h : addressOk s a = true) : a.toNat < s.params.memSize := by
  have := (addressOk_iff s a).mp h
  omega

/-! ### The state operations keep a state's shape -/

namespace CoreState.Fits

variable {s : CoreState xlen}

protected theorem setSignals (hs : s.Fits) (g : Signals) : (s.setSignals g).Fits := { hs with }
protected theorem atStage (hs : s.Fits) (st : Stage) : (s.atStage st).Fits := { hs with }
protected theorem setFetchEn (hs : s.Fits) (b : Bool) : (s.setFetchEn b).Fits := { hs with }
protected theorem setMetrics (hs : s.Fits) (m : Metrics) : (s.setMetrics m).Fits := { hs with }
protected theorem setZ (hs : s.Fits) (z : Bool) : (s.setZ z).Fits := { hs with }
protected theorem setPc (hs : s.Fits) (w : Word xlen) : (s.setPc w).Fits := { hs with }

protected theorem setIF (hs : s.Fits) {o : Option IfEntry} (ho : ∀ f, o = some f → ifFits s f = true) : (s.setIF o).Fits :=
  { hs with ifL := ho }

protected theorem setID (hs : s.Fits) {o : Option (IdEntry xlen)} (ho : ∀ d, o = some d → idFits s d = true) : (s.setID o).Fits :=
  { hs with idL := ho }

protected theorem setEX (hs : s.Fits) {o : Option (ExEntry xlen)} (ho : ∀ e, o = some e → exFits s e = true) : (s.setEX o).Fits :=
  { hs with exL := ho }

protected theorem setMEM (hs : s.Fits) {o : Option (ExEntry xlen)} (ho : ∀ e, o = some e → exFits s e = true) : (s.setMEM o).Fits :=
  { hs with memL := ho }

protected theorem setWB (hs : s.Fits) {o : Option (ExEntry xlen)} (ho : ∀ e, o = some e → exFits s e = true) : (s.setWB o).Fits :=
  { hs with wbL := ho }

protected theorem setRegs (hs : s.Fits) {r : List (Word xlen)} (hr : r.length = s.regs.length) : (s.setRegs r).Fits :=
  { hs with regs := hr.trans hs.regs }

/-- A run that ends keeps the bound on its program's length; that it was validated is asked of a running one alone. -/
protected theorem setStatus (hs : s.Fits) {r : RunStatus} (hr : r ≠ .running) : (s.setStatus r).Fits :=
  { hs with
    program := by
      have hl := (Bool.and_eq_true_iff.mp hs.program).1
      cases r with
      | running => exact absurd rfl hr
      | _ => simpa [programFits] using hl }

protected theorem hostAction (hs : s.Fits) : (hostAction s).Fits := by
  rw [hostAction_frame]
  exact { hs with }

protected theorem memReadState (hs : s.Fits) (a : Nat) : (memReadState s a).Fits := by
  cases h : isHit s a with
  | true =>
    rw [memReadState_hit h]
    exact hs.setMetrics _
  | false =>
    rw [memReadState_miss h]
    exact { hs with
      cache := by simpa using hs.cache
      lines := setLine_line_length hs.lines (by simp [filledLine]) }

protected theorem memWrite (hs : s.Fits) {a : Nat} (v : Word xlen) (ha : a < s.params.memSize) : (memWrite s a v).Fits := by
  have hmain := Memory.wf_writeMain hs.main a v
  have hbelow := addressesBelow_writeMain (v := v) hs.addresses ha
  cases h : isHit s a with
  | true =>
    rw [memWrite_hit v h]
    exact { hs with
      main := hmain
      addresses := hbelow
      cache := by simpa using hs.cache
      lines := setLine_line_length hs.lines (by simpa [writtenLine] using hs.lineAt_length _) }
  | false =>
    rw [memWrite_miss v h]
    exact { hs with main := hmain, addresses := hbelow }

protected theorem stall (hs : s.Fits) : (stall s).Fits := { hs with idL := (fun _ h => nomatch h) }

protected theorem flushTo (hs : s.Fits) (w : Word xlen) : (flushTo w s).Fits :=
  { hs with ifL := (fun _ h => nomatch h), idL := (fun _ h => nomatch h) }

/-! ### The stage functions keep it -/

variable {t : CoreState xlen}

protected theorem writeBackStage (hs : s.Fits) (h : writeBackStage s = .next { xlen := xlen, core := t }) : t.Fits := by
  rcases writeBackStage_next h with ⟨-, rfl⟩ | ⟨m, k, v, hm, -, -, -, -, rfl⟩ | ⟨m, hm, -, rfl⟩
  · exact hs.setWB (fun _ h => nomatch h)
  · exact ((hs.atStage .writeBack).setWB (fun _ he => hs.memL _ (hm.trans he))).setRegs (by simp)
  · exact (hs.atStage _).setWB (fun _ he => hs.memL _ (hm.trans he))

protected theorem memoryStage (hs : s.Fits) (h : memoryStage s = .next { xlen := xlen, core := t }) : t.Fits := by
  have hat := hs.atStage .memoryAccess
  rcases memoryStage_next h with ⟨-, rfl⟩ | ⟨e, w, he, -, hw, -, rfl⟩ | ⟨e, w, v, he, -, -, -, ha, rfl⟩ |
    ⟨e, he, -, -, rfl⟩
  · exact hs.setMEM (fun _ h => nomatch h)
  · refine (hat.memReadState _).setMEM ?_
    rw [memReadState_frame]
    rintro _ ⟨⟩
    exact exFits_with_result (hs.exL e he) hw
  · refine (hat.memWrite v (toNat_lt_of_addressOk ha)).setMEM ?_
    rw [memWrite_frame]
    rintro _ ⟨⟩
    exact hs.exL e he
  · exact hat.setMEM (fun _ h => hs.exL _ (he.trans h))

protected theorem executeStage (hs : s.Fits) (h : executeStage s = .next { xlen := xlen, core := t }) : t.Fits := by
  rcases executeStage_next h with ⟨-, rfl⟩ | ⟨d, result, sval, z, hd, rfl, -, hr, hv, -⟩
  · exact hs.setEX (fun _ h => nomatch h)
  · refine ((hs.atStage _).setEX ?_).setZ z
    rintro _ ⟨⟩
    exact exFits_executed (hs.idL d hd) hr hv

protected theorem decodeStage (hs : s.Fits) (h : decodeStage s = .next { xlen := xlen, core := t }) : t.Fits := by
  have hat := (hs.setFetchEn true).atStage .decode
  rcases decodeStage_next h with ⟨-, rfl⟩ | ⟨f, vs, hf, ht, hv, rfl⟩ | ⟨f, -, -, -, rfl⟩ | ⟨f, w, -, -, rfl⟩ |
    ⟨f, w, hf, ht, hj, rfl⟩
  · exact (hs.setFetchEn _).setID (fun _ h => nomatch h)
  · refine hat.setID ?_
    rintro _ ⟨⟩
    exact idFits_decoded_sources (s := s) (hs.ifL f hf) ht hv
  · exact hat.stall
  · exact hat.flushTo _
  · refine hat.setID ?_
    rintro _ ⟨⟩
    exact idFits_decoded_branch (hs.ifL f hf) ht hj

protected theorem fetchStage (hs : s.Fits) (h : fetchStage s = .next { xlen := xlen, core := t }) : t.Fits := by
  rcases fetchStage_next h with ⟨-, rfl⟩ | ⟨-, -, rfl⟩ | ⟨i, -, hi, rfl⟩
  · exact hs
  · exact hs.setIF (fun _ h => nomatch h)
  · refine ((hs.atStage _).setIF ?_).setPc _
    rintro _ ⟨⟩
    obtain ⟨p, hp, hd⟩ := recordAtPC_eq_ok hi
    exact fetchedFrom_of_decode hp hd

/-! ### The shapes of a step keep it -/

protected theorem interruptShape (hs : s.Fits) (h : interruptShape s t) : t.Fits := by
  obtain ⟨-, -, rfl⟩ := h
  exact { hs with regs := List.length_set.trans hs.regs, istate := rfl }

protected theorem stagesShape (hs : s.Fits) (h : stagesShape s t) : t.Fits := by
  obtain ⟨s₁, s₂, s₃, s₄, s₅, h₁, h₂, h₃, h₄, h₅, rfl⟩ := h
  have hs₄ := (((hs.hostAction.writeBackStage h₁).memoryStage h₂).executeStage h₃).decodeStage h₄
  exact ((hs₄.fetchStage h₅).setMetrics _).setSignals _

protected theorem memoryRaiseShape (hs : s.Fits) (h : memoryRaiseShape s t) : t.Fits := by
  obtain ⟨s₁, f, r, h₁, -, -, rfl⟩ := h
  exact ((hs.hostAction.writeBackStage h₁).setStatus (by simp)).setSignals _

protected theorem executeRaiseShape (hs : s.Fits) (h : executeRaiseShape s t) : t.Fits := by
  obtain ⟨s₁, s₂, f, r, h₁, h₂, -, -, rfl⟩ := h
  exact (((hs.hostAction.writeBackStage h₁).memoryStage h₂).setStatus (by simp)).setSignals _

protected theorem step (hs : s.Fits) (h : step { xlen := xlen, core := s } = .next { xlen := xlen, core := t }) : t.Fits := by
  rcases step_shapes_core h with ⟨-, rfl⟩ | ⟨-, r, hr, rfl⟩ | ⟨-, -, hi | hc | hm | he⟩
  · exact hs
  · exact hs.hostAction.setStatus (by rcases hr with rfl | rfl <;> simp)
  · exact hs.interruptShape hi
  · exact hs.stagesShape hc
  · exact hs.memoryRaiseShape hm
  · exact hs.executeRaiseShape he

end CoreState.Fits

/-- A step leaves the model's own signals as they were, or at rest. -/
theorem step_signals {s t : CoreState xlen} (h : step { xlen := xlen, core := s } = .next { xlen := xlen, core := t }) :
    t.signals = s.signals ∨ t.signals = Signals.rest := by
  rcases step_shapes_core h with ⟨-, rfl⟩ | ⟨-, r, -, rfl⟩ | ⟨-, -, hi | hc | hm | he⟩
  · exact .inl rfl
  · exact .inl (hostAction_signals s)
  · obtain ⟨-, -, rfl⟩ := hi
    exact .inl rfl
  · obtain ⟨_, _, _, _, _, -, -, -, -, -, rfl⟩ := hc
    exact .inr rfl
  · obtain ⟨_, _, _, -, -, -, rfl⟩ := hm
    exact .inr rfl
  · obtain ⟨_, _, _, _, -, -, -, -, rfl⟩ := he
    exact .inr rfl

/-- Settles O53: each stage function keeps the shape of a state inside a cycle, and every step ends with the signals at
rest. -/
theorem wellFormedStateStaysWellFormed : Obligations.WellFormedStateStaysWellFormed := by
  intro xlen s t hwf h
  obtain ⟨hs, hrest⟩ := (CoreState.wf_iff s).mp hwf
  refine (CoreState.wf_iff t).mpr ⟨hs.step h, ?_⟩
  rcases step_signals h with hg | hg
  · exact hg.trans hrest
  · exact hg

end Sys2Proof.Machine

/-! What a step can do to the registers, Z, PC, Main and the counters, and what it never changes: the rules of the whole
machine that follow from the frames of the five stage functions. -/

namespace Sys2Proof.Machine

open Sys2Proof

variable {xlen : Nat}

/-! ### Who writes what in a cycle -/

/-- What a cycle that services no interrupt can have done, as far as it came: the run's inputs stand, and each piece of
the architectural state is as it was or was written by the instruction in the one latch that may write it. -/
structure CycleEffect (s t : CoreState xlen) : Prop where
  prog : t.prog = s.prog
  params : t.params = s.params
  triggers : t.triggers = s.triggers
  maxCycles : t.maxCycles = s.maxCycles
  regs : t.regs = s.regs ∨ ∃ m k v, s.memL = some m ∧ destOf m.instr ≠ none ∧ m.dest = some k ∧ m.result = some v ∧
    t.regs = s.regs.set k v
  z : t.z ≠ s.z → ∃ d, s.idL = some d ∧ writesZ d.instr = true
  pc : t.pc = s.pc ∨ t.pc = s.pc + 1 ∨ ∃ f w, s.ifL = some f ∧ targetOf f.instr = some w ∧ t.pc = word xlen w
  main : t.main ≠ s.main → ∃ e, s.exL = some e ∧ isStore e.instr = true
  mainWf : s.main.wf = true → t.main.wf = true

/-- Nothing is the least a cycle can have done. -/
theorem CycleEffect.refl (s : CoreState xlen) : CycleEffect s s where
  prog := rfl
  params := rfl
  triggers := rfl
  maxCycles := rfl
  regs := .inl rfl
  z := fun h => absurd rfl h
  pc := .inl rfl
  main := fun h => absurd rfl h
  mainWf := id

section Stages

variable {s s₁ s₂ s₃ s₄ s₅ : CoreState xlen}

theorem CycleEffect.writeBack (h₁ : writeBackStage s = .next { xlen := xlen, core := s₁ }) : CycleEffect s s₁ := by
  rcases writeBackStage_next h₁ with ⟨-, rfl⟩ | ⟨m, k, v, hm, hd, hk, hv, -, rfl⟩ | ⟨m, -, -, rfl⟩
  · exact { CycleEffect.refl s with }
  · exact { CycleEffect.refl s with regs := .inr ⟨m, k, v, hm, hd, hk, hv, rfl⟩ }
  · exact { CycleEffect.refl s with }

theorem CycleEffect.memory (h₁ : writeBackStage s = .next { xlen := xlen, core := s₁ })
    (h₂ : memoryStage s₁ = .next { xlen := xlen, core := s₂ }) : CycleEffect s s₂ := by
  have e₁ := CycleEffect.writeBack h₁
  obtain ⟨r, l, g, rfl, -, -⟩ := writeBackStage_frame h₁
  obtain ⟨c, m, mt, l', g', rfl, -, -, -, -, hmain, -, hwf⟩ := memoryStage_frame h₂
  exact { e₁ with main := hmain, mainWf := hwf }

/-- Decode and Fetch together leave PC, advance it once, or set it to the target of the branch Decode took: a taken branch
holds Fetch for the cycle (40_pipeline.md R141). -/
theorem decode_fetch_pc (h₄ : decodeStage s₃ = .next { xlen := xlen, core := s₄ })
    (h₅ : fetchStage s₄ = .next { xlen := xlen, core := s₅ }) :
    s₅.pc = s₃.pc ∨ s₅.pc = s₃.pc + 1 ∨
      ∃ f w, s₃.ifL = some f ∧ targetOf f.instr = some w ∧ s₅.pc = word xlen w := by
  obtain ⟨p, i, l, mt, g, rfl, hdec⟩ := decodeStage_frame h₄
  obtain ⟨p', i', g', rfl, hfetch⟩ := fetchStage_frame h₅
  have hheld : p' = p ∨ p' = p + 1 ∧ g.fetchEn = true := by
    rcases hfetch with ⟨-, hp, -⟩ | ⟨-, hp, -⟩ | ⟨hen, hp, -⟩
    · exact .inl hp
    · exact .inl hp
    · exact .inr ⟨hp, hen⟩
  rcases hdec with ⟨rfl, -⟩ | ⟨rfl, -⟩ | ⟨f, hf, ⟨w, hw, rfl⟩, -, -, -, hen⟩
  · exact hheld.imp id (fun h => .inl h.1)
  · exact hheld.imp id (fun h => .inl h.1)
  · rcases hheld with rfl | ⟨-, hen'⟩
    · exact .inr (.inr ⟨f, w, hf, hw, rfl⟩)
    · rw [hen] at hen'
      cases hen'

theorem CycleEffect.stages (h₁ : writeBackStage s = .next { xlen := xlen, core := s₁ })
    (h₂ : memoryStage s₁ = .next { xlen := xlen, core := s₂ })
    (h₃ : executeStage s₂ = .next { xlen := xlen, core := s₃ })
    (h₄ : decodeStage s₃ = .next { xlen := xlen, core := s₄ })
    (h₅ : fetchStage s₄ = .next { xlen := xlen, core := s₅ }) : CycleEffect s s₅ := by
  have e₂ := CycleEffect.memory h₁ h₂
  have hpc := decode_fetch_pc h₄ h₅
  obtain ⟨r, l, g, rfl, -, -⟩ := writeBackStage_frame h₁
  obtain ⟨c, m, mt, l', g', rfl, -⟩ := memoryStage_frame h₂
  obtain ⟨x, z, g'', rfl, hz, -⟩ := executeStage_frame h₃
  obtain ⟨p, i, d, mt', g₃, rfl, -⟩ := decodeStage_frame h₄
  obtain ⟨p', i', g₄, rfl, -⟩ := fetchStage_frame h₅
  exact { e₂ with z := hz, pc := hpc }

end Stages

/-- A step that answers wrote as a cycle may, or was an interrupt cycle. -/
theorem step_effect {s t : CoreState xlen} (h : step { xlen := xlen, core := s } = .next { xlen := xlen, core := t }) :
    CycleEffect s t ∨ interruptShape s t := by
  have hhost : CycleEffect s (hostAction s) := by
    rw [hostAction_frame]
    exact { CycleEffect.refl s with }
  rcases step_shapes_core h with ⟨-, rfl⟩ | ⟨-, r, -, rfl⟩ | ⟨-, -, hi | hc | hm | he⟩
  · exact .inl (.refl _)
  · exact .inl { hhost with }
  · exact .inr hi
  · obtain ⟨s₁, s₂, s₃, s₄, s₅, h₁, h₂, h₃, h₄, h₅, rfl⟩ := hc
    rw [hostAction_frame] at h₁
    exact .inl { CycleEffect.stages h₁ h₂ h₃ h₄ h₅ with }
  · obtain ⟨s₁, f, r, h₁, -, -, rfl⟩ := hm
    rw [hostAction_frame] at h₁
    exact .inl { CycleEffect.writeBack h₁ with }
  · obtain ⟨s₁, s₂, f, r, h₁, h₂, -, -, rfl⟩ := he
    rw [hostAction_frame] at h₁
    exact .inl { CycleEffect.memory h₁ h₂ with }

/-! ### The rules that follow -/

/-- Settles O38: no stage function and no interrupt cycle writes the program, the parameters or the run's inputs. -/
theorem programAndParametersAreFixed : Obligations.ProgramAndParametersAreFixed := by
  intro xlen s u h
  obtain ⟨t, rfl⟩ := step_width h
  refine ⟨t, rfl, ?_⟩
  rcases step_effect h with he | ⟨-, -, rfl⟩
  · exact ⟨he.prog, he.params, he.triggers, he.maxCycles⟩
  · exact ⟨rfl, rfl, rfl, rfl⟩

/-- Settles O39: Execute alone writes Z. -/
theorem zeroFlagHasOneWriter : Obligations.ZeroFlagHasOneWriter := by
  intro xlen s t h hz
  rcases step_effect h with he | ⟨-, -, rfl⟩
  · exact he.z hz
  · exact absurd rfl hz

/-- A list that one `set` changes at `k` was set there, and holds the value set. -/
theorem getElem?_of_set_ne {α : Type} {l : List α} {j k : Nat} {v : α} (h : (l.set j v)[k]? ≠ l[k]?) :
    j = k ∧ (l.set j v)[k]? = some v := by
  have hjk : j = k := by
    by_contra hne
    exact h (List.getElem?_set_ne hne)
  subst hjk
  refine ⟨rfl, List.getElem?_set_self ?_⟩
  by_contra hlen
  exact h (by rw [List.set_eq_of_length_le (Nat.le_of_not_lt hlen)])

/-- Settles O40: Write-back and the interrupt routine each set one register. -/
theorem registersHaveTwoWriters : Obligations.RegistersHaveTwoWriters := by
  intro xlen s t k h hk
  rcases step_effect h with he | ⟨hp, -, rfl⟩
  · rcases he.regs with hr | ⟨m, j, v, hm, hd, hj, hv, hr⟩
    · exact absurd (by rw [hr]) hk
    · rw [hr] at hk ⊢
      obtain ⟨rfl, hset⟩ := getElem?_of_set_ne hk
      exact .inl ⟨m, hm, hj, hd, hset.trans hv.symm⟩
  · obtain ⟨hj, hset⟩ := getElem?_of_set_ne hk
    exact .inr ⟨hp, hj.symm, hset⟩

/-- Settles O41: Decode and Fetch write PC, never both in one cycle, and Memory-access writes Main. -/
theorem pcAndMainHaveFewWriters : Obligations.PcAndMainHaveFewWriters := by
  intro xlen s t h
  rcases step_effect h with he | ⟨-, -, rfl⟩
  · exact ⟨he.pc, he.main⟩
  · exact ⟨.inl rfl, fun hne => absurd rfl hne⟩

/-- Settles O50: the one write to Main is `writeMain`, which keeps the canonical form. -/
theorem mainStaysCanonical : Obligations.MainStaysCanonical := by
  intro xlen s t hwf h
  rcases step_effect h with he | ⟨-, -, rfl⟩
  · exact he.mainWf hwf
  · exact hwf

/-! ### The counters -/

section Counters

variable {s t : CoreState xlen}

/-- The bounds of 10_state.md R40, which a run that has not faulted meets without the slack of log 17. -/
def withinBounds (m : Metrics) (maxCycles : Nat) : Prop :=
  m.cycles ≤ maxCycles ∧ m.stalls + m.interrupts ≤ m.cycles ∧ m.cacheHits + m.cacheMisses ≤ m.cycles

theorem withinBounds_of_running (hr : s.status = .running) (h : countersBounded s = true) :
    withinBounds s.metrics s.maxCycles := by
  simpa [countersBounded, hr, withinBounds, and_assoc] using h

theorem countersBounded_of_withinBounds (h : withinBounds s.metrics s.maxCycles) : countersBounded s = true := by
  obtain ⟨hcap, hstalls, hreads⟩ := h
  simp only [countersBounded, hcap, hstalls, decide_true, Bool.and_self, Bool.true_and, decide_eq_true_eq]
  exact hreads.trans (Nat.le_add_right _ _)

theorem countersBounded_of_faulted {r : FaultRecord} (hr : s.status = .faulted r) (hcap : s.metrics.cycles ≤ s.maxCycles)
    (hstalls : s.metrics.stalls + s.metrics.interrupts ≤ s.metrics.cycles)
    (hreads : s.metrics.cacheHits + s.metrics.cacheMisses ≤ s.metrics.cycles + 1) : countersBounded s = true := by
  simp [countersBounded, hr, hcap, hstalls, hreads]

/-- A cycle whose stages ran counts itself, at most one stall and at most one cache read, and no interrupt. -/
theorem stagesShape_counts (h : stagesShape s t) :
    t.maxCycles = s.maxCycles ∧ t.metrics.cycles = s.metrics.cycles + 1 ∧ t.metrics.interrupts = s.metrics.interrupts ∧
    t.metrics.stalls ≤ s.metrics.stalls + 1 ∧
    t.metrics.cacheHits + t.metrics.cacheMisses ≤ s.metrics.cacheHits + s.metrics.cacheMisses + 1 := by
  obtain ⟨s₁, s₂, s₃, s₄, s₅, h₁, h₂, h₃, h₄, h₅, rfl⟩ := h
  rw [hostAction_frame] at h₁
  obtain ⟨_, _, _, rfl, -⟩ := writeBackStage_frame h₁
  obtain ⟨_, _, mt, _, _, rfl, hcycles, hstalls, hints, hreads, -⟩ := memoryStage_frame h₂
  obtain ⟨_, _, _, rfl, -⟩ := executeStage_frame h₃
  obtain ⟨_, _, _, mt', _, rfl, hdec⟩ := decodeStage_frame h₄
  obtain ⟨_, _, _, rfl, -⟩ := fetchStage_frame h₅
  have hmt' : mt' = mt ∨ mt' = { mt with stalls := mt.stalls + 1 } := by
    rcases hdec with ⟨-, -, rfl, -⟩ | ⟨-, -, -, rfl, -⟩ | ⟨_, -, -, -, -, rfl, -⟩
    · exact .inl rfl
    · exact .inr rfl
    · exact .inl rfl
  rcases hmt' with rfl | rfl
  · exact ⟨rfl, congrArg (· + 1) hcycles, hints, hstalls.le.trans (Nat.le_succ _), hreads⟩
  · exact ⟨rfl, congrArg (· + 1) hcycles, hints, Nat.succ_le_succ hstalls.le, hreads⟩

/-- A raise in Memory-access leaves every counter as it was. -/
theorem memoryRaiseShape_counts (h : memoryRaiseShape s t) :
    t.maxCycles = s.maxCycles ∧ t.metrics = s.metrics ∧ ∃ r, t.status = .faulted r := by
  obtain ⟨s₁, f, r, h₁, -, -, rfl⟩ := h
  rw [hostAction_frame] at h₁
  obtain ⟨_, _, _, rfl, -⟩ := writeBackStage_frame h₁
  exact ⟨rfl, rfl, r, rfl⟩

/-- A raise in Execute leaves the cycle uncounted, but the cache read of its Memory-access stands (60_exceptions.md
R265). -/
theorem executeRaiseShape_counts (h : executeRaiseShape s t) :
    t.maxCycles = s.maxCycles ∧ t.metrics.cycles = s.metrics.cycles ∧ t.metrics.interrupts = s.metrics.interrupts ∧
    t.metrics.stalls = s.metrics.stalls ∧
    t.metrics.cacheHits + t.metrics.cacheMisses ≤ s.metrics.cacheHits + s.metrics.cacheMisses + 1 ∧
    ∃ r, t.status = .faulted r := by
  obtain ⟨s₁, s₂, f, r, h₁, h₂, -, -, rfl⟩ := h
  rw [hostAction_frame] at h₁
  obtain ⟨_, _, _, rfl, -⟩ := writeBackStage_frame h₁
  obtain ⟨_, _, _, _, _, rfl, hcycles, hstalls, hints, hreads, -⟩ := memoryStage_frame h₂
  exact ⟨rfl, hcycles, hints, hstalls, hreads, r, rfl⟩

end Counters

/-- Settles O52: a cycle below the cap counts itself with at most one stall or interrupt and one cache read; a raise leaves
the cycle uncounted and the read counted. -/
theorem countersStayBounded : Obligations.CountersStayBounded := by
  intro xlen s t hb h
  rcases step_shapes_core h with ⟨-, rfl⟩ | ⟨hrun, r, -, rfl⟩ | ⟨hrun, hcap, hshape⟩
  · exact hb
  · exact countersBounded_of_withinBounds (by simpa using withinBounds_of_running hrun hb)
  · obtain ⟨-, hstalls, hreads⟩ := withinBounds_of_running hrun hb
    rcases hshape with ⟨-, -, rfl⟩ | hc | hm | he
    · refine countersBounded_of_withinBounds ⟨hcap, ?_, Nat.le_succ_of_le hreads⟩
      exact Nat.succ_le_succ hstalls
    · obtain ⟨hmax, hcyc, hint, hst, hrd⟩ := stagesShape_counts hc
      exact countersBounded_of_withinBounds ⟨by omega, by omega, by omega⟩
    · obtain ⟨hmax, hmet, r, hr⟩ := memoryRaiseShape_counts hm
      rw [← hmet] at hcap hstalls hreads
      exact countersBounded_of_faulted hr (by omega) hstalls (by omega)
    · obtain ⟨hmax, hcyc, hint, hst, hrd, r, hr⟩ := executeRaiseShape_counts he
      exact countersBounded_of_faulted hr (by omega) (by omega) (by omega)

end Sys2Proof.Machine

/-! Reset gives every item of state its value (10_state.md R55), and the reset state meets the invariants. -/

namespace Sys2Proof.Machine

open Sys2Proof

variable {xlen : Nat}

@[simp] theorem initialRegs_length (n : Nat) (r : List (Word xlen)) : (initialRegs n r).length = n := by
  simp [initialRegs]

theorem initialRegs_getElem? {n k : Nat} (r : List (Word xlen)) (hk : k < n) :
    (initialRegs n r)[k]? = some (r.getD k 0) := by
  simp [initialRegs, hk]

/-- Main from `init_mem` reads as the first entry for the address, and as unlisted where there is none. -/
theorem readMain_initialMain (l : List (Nat × Word xlen)) (a : Nat) :
    readMain (initialMain l) a = (l.lookup a).getD unlistedWord := by
  induction l with
  | nil => rfl
  | cons c rest ih =>
    obtain ⟨k, v⟩ := c
    have hread : readMain (initialMain ((k, v) :: rest)) a = if a = k then v else readMain (initialMain rest) a :=
      readMain_writeMain (Memory.wf_initialMain rest) k v a
    rw [hread, List.lookup_cons]
    by_cases hak : a = k
    · simp [hak]
    · simp [beq_false_of_ne hak, hak, ih]

/-- Settles O9: `assertReset` writes each value out, but for the registers, the cache and Main, which it builds from the
inputs. -/
theorem resetGivesEveryItemItsValue : Obligations.ResetGivesEveryItemItsValue := by
  intro inp dev
  refine ⟨fun k hk => initialRegs_getElem? inp.initRegs hk, initialRegs_length _ _, rfl, rfl, rfl, fun i hi => ?_,
    List.length_replicate, fun _ a => readMain_initialMain inp.initMem a, rfl, rfl, rfl⟩
  exact List.getElem?_replicate_of_lt hi

/-- A cache without a valid line is transparent. -/
theorem transparent_of_no_valid_line {s : CoreState xlen} (h : ∀ i < s.params.numLines, (lineAt s i).valid = false) :
    Transparent s := by
  intro i hi hv
  rw [h i hi] at hv
  cases hv

/-- Settles O10: the reset state is a fixed value, whose shape and bounds evaluate; its cache has no valid line. -/
theorem resetStateIsSafe : Obligations.ResetStateIsSafe :=
  ⟨by decide, transparent_of_no_valid_line (by decide), by decide⟩

end Sys2Proof.Machine

/-! The cache controller (20_memory.md R76 to R89): an address and its line, what Memory-access does with it in LOAD and
STORE, and the transparency of the cache, which every step keeps. -/

namespace Sys2Proof.Machine

open Sys2Proof

variable {xlen : Nat}

/-! ### An address and its line index, tag and offset -/

section Address

variable {p : Params xlen} {a i tag j : Nat}

theorem blockSize_pos_of_wf (h : p.wf = true) : 0 < p.blockSize := by
  simp only [Params.wf, Bool.and_eq_true, decide_eq_true_eq] at h
  omega

theorem numLines_pos_of_wf (h : p.wf = true) : 0 < p.numLines := by
  simp only [Params.wf, Bool.and_eq_true, decide_eq_true_eq] at h
  omega

theorem lineIndex_lt (h : 0 < p.numLines) : lineIndex p a < p.numLines := Nat.mod_lt _ h

theorem offsetOf_lt (h : 0 < p.blockSize) : offsetOf p a < p.blockSize := Nat.mod_lt _ h

/-- The block of a line's word is number `tag * NUM_LINES + i` of the memory. -/
theorem lineAddress_eq_block : lineAddress p i tag j = p.blockSize * (p.numLines * tag + i) + j := by
  unfold lineAddress
  ring

theorem lineAddress_round_trip (p : Params xlen) (a : Nat) :
    lineAddress p (lineIndex p a) (tagOf p a) (offsetOf p a) = a := by
  rw [lineAddress_eq_block, tagOf, ← Nat.div_div_eq_div_mul, lineIndex, Nat.div_add_mod, offsetOf, Nat.div_add_mod]

theorem lineAddress_div_blockSize (hj : j < p.blockSize) :
    lineAddress p i tag j / p.blockSize = p.numLines * tag + i := by
  rw [lineAddress_eq_block, Nat.mul_add_div (by omega), Nat.div_eq_of_lt hj, Nat.add_zero]

theorem offsetOf_lineAddress (hj : j < p.blockSize) : offsetOf p (lineAddress p i tag j) = j := by
  rw [offsetOf, lineAddress_eq_block, Nat.mul_add_mod, Nat.mod_eq_of_lt hj]

theorem lineIndex_lineAddress (hi : i < p.numLines) (hj : j < p.blockSize) :
    lineIndex p (lineAddress p i tag j) = i := by
  rw [lineIndex, lineAddress_div_blockSize hj, Nat.mul_add_mod, Nat.mod_eq_of_lt hi]

theorem tagOf_lineAddress (hi : i < p.numLines) (hj : j < p.blockSize) : tagOf p (lineAddress p i tag j) = tag := by
  rw [tagOf, ← Nat.div_div_eq_div_mul, lineAddress_div_blockSize hj, Nat.mul_add_div (by omega), Nat.div_eq_of_lt hi,
    Nat.add_zero]

/-- By direct mapping one word of one line, under one tag, stands for an address (R79). -/
theorem lineAddress_eq_iff (hi : i < p.numLines) (hj : j < p.blockSize) :
    lineAddress p i tag j = a ↔ i = lineIndex p a ∧ tag = tagOf p a ∧ j = offsetOf p a := by
  constructor
  · rintro rfl
    exact ⟨(lineIndex_lineAddress hi hj).symm, (tagOf_lineAddress hi hj).symm, (offsetOf_lineAddress hj).symm⟩
  · rintro ⟨rfl, rfl, rfl⟩
    exact lineAddress_round_trip p a

end Address

/-- Settles O47: the quotients and remainders of R78 put together again. -/
theorem cacheAddressRoundTrips : Obligations.CacheAddressRoundTrips := fun _ p a hb hn =>
  ⟨lineAddress_round_trip p a, lineIndex_lt hn, offsetOf_lt hb⟩

/-! ### Lines, hits and the word read -/

section Lines

variable {s t : CoreState xlen} {a i k : Nat} {l : Line xlen}

theorem lineAt_of_getElem? (h : s.cache[i]? = some l) : lineAt s i = l := by
  simp [lineAt, List.getD_eq_getElem?_getD, h]

theorem lineAt_of_set_self (hc : t.cache = s.cache.set i l) (hi : i < s.cache.length) : lineAt t i = l :=
  lineAt_of_getElem? (by rw [hc, List.getElem?_set_self hi])

theorem lineAt_of_set_ne (hc : t.cache = s.cache.set i l) (hp : t.params = s.params) (hk : k ≠ i) :
    lineAt t k = lineAt s k := by
  simp [lineAt, List.getD_eq_getElem?_getD, hc, hp, List.getElem?_set_ne hk.symm]

theorem isHit_iff : isHit s a = true ↔
    (lineAt s (lineIndex s.params a)).valid = true ∧ (lineAt s (lineIndex s.params a)).tag = tagOf s.params a := by
  simp [isHit]

theorem isHit_eq_false_iff : isHit s a = false ↔
    (lineAt s (lineIndex s.params a)).valid = false ∨ (lineAt s (lineIndex s.params a)).tag ≠ tagOf s.params a := by
  simp [isHit, or_iff_not_imp_left]

theorem memReadWord_hit (h : isHit s a = true) : memReadWord s a =
    (lineAt s (lineIndex s.params a)).data.getD (offsetOf s.params a) unlistedWord := if_pos h

/-- A miss reads the word of Main, out of the block it fills the line with. -/
theorem memReadWord_miss (hb : 0 < s.params.blockSize) (h : isHit s a = false) : memReadWord s a = readMain s.main a := by
  have hbase : a - offsetOf s.params a + offsetOf s.params a = a := Nat.sub_add_cancel (Nat.mod_le _ _)
  rw [memReadWord, if_neg (by simp [h]), filledLine, List.getD_eq_getElem?_getD,
    blockOf_getElem? _ _ _ _ (offsetOf_lt hb), hbase, Option.getD_some]

end Lines

/-! ### LOAD and STORE in Memory-access -/

section Access

variable {s : CoreState xlen} {e : ExEntry xlen} {w v : Word xlen}

theorem exec_load_memory (hst : s.signals.stage = .memoryAccess) (he : s.exL = some e) (rd : Nat) (a : Operand) :
    exec (.load rd a) { xlen := xlen, core := s } = ofWidth (accessLoad e s) :=
  congrArg ofWidth (atStageOf_memory hst he)

theorem exec_store_memory (hst : s.signals.stage = .memoryAccess) (he : s.exL = some e) (rs : Nat) (a : Operand) :
    exec (.store rs a) { xlen := xlen, core := s } = ofWidth (accessStore e s) :=
  congrArg ofWidth (atStageOf_memory hst he)

theorem accessLoad_in_range (hw : e.result = some w) (h : addressOk s (sx w) = true) : accessLoad e s =
    .next ((memReadState s (sx w).toNat).setMEM (some { e with result := some (memReadWord s (sx w).toNat) })) := by
  simp [accessLoad, hw, h]

theorem accessStore_in_range (hw : e.result = some w) (hv : e.sval = some v) (h : addressOk s (sx w) = true) :
    accessStore e s = .next ((memWrite s (sx w).toNat v).setMEM (some e)) := by
  simp [accessStore, hw, hv, h]

theorem accessLoad_out_of_range (hw : e.result = some w) (h : addressOk s (sx w) = false) :
    accessLoad e s = .fault (.addressOutOfRange e.idx (sx w)) := by
  simp [accessLoad, hw, h]

theorem accessStore_out_of_range (hw : e.result = some w) (hv : e.sval = some v) (h : addressOk s (sx w) = false) :
    accessStore e s = .fault (.addressOutOfRange e.idx (sx w)) := by
  simp [accessStore, hw, hv, h]

theorem addressOk_eq_false_iff (s : CoreState xlen) (a : Int) : addressOk s a = false ↔ a < 0 ∨ s.params.memSize ≤ a := by
  rw [← Bool.not_eq_true, addressOk_iff]
  omega

end Access

/-- Settles O27: both accesses check the address before anything else. -/
theorem addressOutOfRangeRaises : Obligations.AddressOutOfRangeRaises := by
  intro xlen s r a e w hst he hw hrange
  have hbad := (addressOk_eq_false_iff s (sx w)).mpr hrange
  refine ⟨?_, fun v hv => ?_⟩
  · rw [exec_load_memory hst he, accessLoad_out_of_range hw hbad]
    rfl
  · rw [exec_store_memory hst he, accessStore_out_of_range hw hv hbad]
    rfl

/-- Settles O25: the line named in the statement is the one the read looks at, so the two clauses are a hit and a miss. -/
theorem loadReadsThroughCache : Obligations.LoadReadsThroughCache := by
  intro xlen s rd a e w line hst he hw hlo hhi hb hline
  have hat : lineAt s (lineIndex s.params (sx w).toNat) = line := lineAt_of_getElem? hline
  rw [exec_load_memory hst he, accessLoad_in_range hw ((addressOk_iff s _).mpr ⟨hlo, hhi⟩)]
  refine ⟨fun v hvalid htag hv => ?_, fun hmiss => ?_⟩
  · have hhit : isHit s (sx w).toNat = true := isHit_iff.mpr (by rw [hat]; exact ⟨hvalid, htag⟩)
    have hword : memReadWord s (sx w).toNat = v := by
      rw [memReadWord_hit hhit, hat, List.getD_eq_getElem?_getD, offsetOf, hv, Option.getD_some]
    rw [hword, memReadState_hit hhit]
    rfl
  · have hno : isHit s (sx w).toNat = false := isHit_eq_false_iff.mpr (by rw [hat]; exact hmiss)
    rw [memReadWord_miss hb hno, memReadState_miss hno]
    rfl

/-- Settles O26: a hit and a miss both write Main; the hit writes the line as well. -/
theorem storeWritesThroughCache : Obligations.StoreWritesThroughCache := by
  intro xlen s rs a e w v line hst he hw hv hlo hhi hwf hline
  have hat : lineAt s (lineIndex s.params (sx w).toNat) = line := lineAt_of_getElem? hline
  have hmain : (memWrite s (sx w).toNat v).main = writeMain s.main (sx w).toNat v := by rw [memWrite_frame]
  refine ⟨(memWrite s (sx w).toNat v).setMEM (some e), ?_, ?_, fun b hb => ?_, fun hhit => ?_, fun hmiss => ?_, ?_⟩
  · rw [exec_store_memory hst he, accessStore_in_range hw hv ((addressOk_iff s _).mpr ⟨hlo, hhi⟩)]
    rfl
  · rw [CoreState.setMEM_main, hmain, readMain_writeMain hwf, if_pos rfl]
  · rw [CoreState.setMEM_main, hmain, readMain_writeMain hwf, if_neg hb]
  · have hhit' : isHit s (sx w).toNat = true := isHit_iff.mpr (by rw [hat]; exact hhit)
    rw [CoreState.setMEM_cache, memWrite_hit v hhit', writtenLine, hat]
    rfl
  · have hmiss' : isHit s (sx w).toNat = false := by
      rw [← Bool.not_eq_true, isHit_iff, hat]
      exact hmiss
    rw [CoreState.setMEM_cache, memWrite_miss v hmiss']
  · rw [memWrite_frame]
    rfl

/-! ### A line that equals Main -/

/-- The transparency of one line (R86): if line `i` is `l` and valid, its words are the words of Main they stand for. -/
def lineEqualsMain (p : Params xlen) (m : Memory xlen) (i : Nat) (l : Line xlen) : Prop :=
  l.valid = true → ∀ j < p.blockSize, l.data[j]? = some (readMain m (lineAddress p i l.tag j))

theorem transparent_iff (s : CoreState xlen) :
    Transparent s ↔ ∀ i < s.params.numLines, lineEqualsMain s.params s.main i (lineAt s i) := Iff.rfl

section LineEqualsMain

variable {p : Params xlen} {m : Memory xlen} {a i : Nat} {l : Line xlen}

/-- The line a read miss leaves equals Main: it is a copy of the aligned block of Main. -/
theorem lineEqualsMain_filledLine (s : CoreState xlen) (a : Nat) :
    lineEqualsMain s.params s.main (lineIndex s.params a) (filledLine s a) := by
  intro _ j hj
  have hbase : a - offsetOf s.params a = lineAddress s.params (lineIndex s.params a) (tagOf s.params a) 0 := by
    have htrip := lineAddress_round_trip s.params a
    unfold lineAddress at htrip ⊢
    omega
  exact (blockOf_getElem? _ _ _ _ hj).trans (by rw [hbase]; rfl)

/-- A write to Main outside a line's block leaves the line equal to Main. -/
theorem lineEqualsMain_writeMain_other (v : Word xlen) (h : lineEqualsMain p m i l) (hm : m.wf = true)
    (hi : i < p.numLines) (hother : l.valid = true → ¬ (i = lineIndex p a ∧ l.tag = tagOf p a)) :
    lineEqualsMain p (writeMain m a v) i l := by
  intro hvalid j hj
  have hne : lineAddress p i l.tag j ≠ a := by
    intro heq
    obtain ⟨hidx, htag, -⟩ := (lineAddress_eq_iff hi hj).mp heq
    exact hother hvalid ⟨hidx, htag⟩
  rw [readMain_writeMain hm, if_neg hne]
  exact h hvalid j hj

/-- A write of the same word to Main and to the line that holds its address leaves the line equal to Main. -/
theorem lineEqualsMain_writeMain_same (v : Word xlen) (h : lineEqualsMain p m (lineIndex p a) l) (hm : m.wf = true)
    (hn : 0 < p.numLines) (htag : l.tag = tagOf p a) :
    lineEqualsMain p (writeMain m a v) (lineIndex p a) { l with data := l.data.set (offsetOf p a) v } := by
  intro hvalid j hj
  have hold := h hvalid j hj
  have haddr : lineAddress p (lineIndex p a) l.tag j = a ↔ j = offsetOf p a := by
    rw [lineAddress_eq_iff (lineIndex_lt hn) hj]
    simp [htag]
  rw [readMain_writeMain hm]
  by_cases hjo : j = offsetOf p a
  · rw [if_pos (haddr.mpr hjo), ← hjo, List.getElem?_set_self (List.getElem?_eq_some_iff.mp hold).1]
  · rw [if_neg (fun heq => hjo (haddr.mp heq)), List.getElem?_set_ne (Ne.symm hjo), hold]

end LineEqualsMain

/-! ### What keeps the cache transparent -/

section Transparency

variable {s t : CoreState xlen} {a i : Nat} {l : Line xlen}

/-- Transparency is a matter of the parameters, the cache and Main alone. -/
theorem transparent_of_same_storage (h : Transparent s) (hp : t.params = s.params) (hc : t.cache = s.cache)
    (hm : t.main = s.main) : Transparent t := by
  simpa only [Transparent, lineAt, hp, hc, hm] using h

/-- A state that differs in one line is transparent if that line and the others equal its Main. -/
theorem transparent_of_set_line (hi : i < s.cache.length) (hp : t.params = s.params) (hc : t.cache = s.cache.set i l)
    (hl : lineEqualsMain s.params t.main i l)
    (ho : ∀ k < s.params.numLines, k ≠ i → lineEqualsMain s.params t.main k (lineAt s k)) : Transparent t := by
  rw [transparent_iff, hp]
  intro k hk
  by_cases hki : k = i
  · subst hki
    rw [lineAt_of_set_self hc hi]
    exact hl
  · rw [lineAt_of_set_ne hc hp hki]
    exact ho k hk hki

theorem lineIndex_lt_length (hp : s.params.wf = true) (hc : s.cache.length = s.params.numLines) :
    lineIndex s.params a < s.cache.length := by
  rw [hc]
  exact lineIndex_lt (numLines_pos_of_wf hp)

/-- A read keeps the cache transparent: a hit leaves it, a miss copies Main into one line. -/
theorem transparent_memReadState (hp : s.params.wf = true) (hc : s.cache.length = s.params.numLines)
    (h : Transparent s) (a : Nat) : Transparent (memReadState s a) := by
  cases hhit : isHit s a with
  | true =>
    rw [memReadState_hit hhit]
    exact transparent_of_same_storage h rfl rfl rfl
  | false =>
    rw [memReadState_miss hhit]
    exact transparent_of_set_line (lineIndex_lt_length hp hc) rfl rfl (lineEqualsMain_filledLine s a)
      (fun k hk _ => h k hk)

/-- A write keeps the cache transparent: the one line that can hold the address is written with Main, or does not hold
it. -/
theorem transparent_memWrite (hp : s.params.wf = true) (hc : s.cache.length = s.params.numLines)
    (hm : s.main.wf = true) (h : Transparent s) (a : Nat) (v : Word xlen) : Transparent (memWrite s a v) := by
  have hn := numLines_pos_of_wf hp
  cases hhit : isHit s a with
  | true =>
    rw [memWrite_hit v hhit]
    refine transparent_of_set_line (lineIndex_lt_length hp hc) rfl rfl ?_ (fun k hk hne => ?_)
    · exact lineEqualsMain_writeMain_same v (h _ (lineIndex_lt hn)) hm hn (isHit_iff.mp hhit).2
    · exact lineEqualsMain_writeMain_other v (h k hk) hm hk (fun _ hold => hne hold.1)
  | false =>
    rw [memWrite_miss v hhit]
    intro k hk
    have hother : (lineAt s k).valid = true → ¬ (k = lineIndex s.params a ∧ (lineAt s k).tag = tagOf s.params a) := by
      rintro hvalid ⟨rfl, htag⟩
      rw [isHit_iff.mpr ⟨hvalid, htag⟩] at hhit
      cases hhit
    exact lineEqualsMain_writeMain_other v (h k hk) hm hk hother

/-! ### What a transparent cache answers -/

theorem memReadWord_eq_readMain (hp : s.params.wf = true) (h : Transparent s) (a : Nat) :
    memReadWord s a = readMain s.main a := by
  have hb := blockSize_pos_of_wf hp
  cases hhit : isHit s a with
  | true =>
    obtain ⟨hvalid, htag⟩ := isHit_iff.mp hhit
    have hword := h _ (lineIndex_lt (numLines_pos_of_wf hp)) hvalid _ (offsetOf_lt (a := a) hb)
    rw [htag, lineAddress_round_trip] at hword
    rw [memReadWord_hit hhit, List.getD_eq_getElem?_getD, hword, Option.getD_some]
  | false => exact memReadWord_miss hb hhit

/-- A read leaves its address in the cache: it was there, or the miss filled the line. -/
theorem isHit_memReadState (hp : s.params.wf = true) (hc : s.cache.length = s.params.numLines) (a : Nat) :
    isHit (memReadState s a) a = true := by
  cases hhit : isHit s a with
  | true =>
    rw [memReadState_hit hhit]
    exact hhit
  | false =>
    have hfilled : lineAt (memReadState s a) (lineIndex s.params a) = filledLine s a :=
      lineAt_of_set_self (by rw [memReadState_miss hhit]) (lineIndex_lt_length hp hc)
    have hparams : (memReadState s a).params = s.params := by rw [memReadState_frame]
    rw [isHit_iff, hparams, hfilled]
    exact ⟨rfl, rfl⟩

end Transparency

/-- Settles O48: a hit reads a word that equals Main, a miss reads Main itself. -/
theorem readsReturnMain : Obligations.ReadsReturnMain := fun _ _ a hp _ ht => memReadWord_eq_readMain hp ht a

/-- Settles O49: the write leaves the cache transparent, so the read after it returns the word it put into Main. -/
theorem cacheKeepsWhatWasAccessed : Obligations.CacheKeepsWhatWasAccessed := by
  intro xlen s a hp hstore ht
  obtain ⟨-, hc, -, hm, -⟩ := (storageFits_iff s).mp hstore
  refine ⟨fun v => ?_, isHit_memReadState hp hc a⟩
  have hparams : (memWrite s a v).params = s.params := by rw [memWrite_frame]
  have hmain : (memWrite s a v).main = writeMain s.main a v := by rw [memWrite_frame]
  rw [memReadWord_eq_readMain (hparams ▸ hp) (transparent_memWrite hp hc hm ht a v), hmain, readMain_writeMain hm,
    if_pos rfl]

/-! ### Every step keeps it -/

section Steps

variable {s t : CoreState xlen}

theorem transparent_hostAction (h : Transparent s) : Transparent (hostAction s) :=
  transparent_of_same_storage h (hostAction_params s) (hostAction_cache s) (hostAction_main s)

theorem transparent_writeBackStage (ht : Transparent s) (h : writeBackStage s = .next { xlen := xlen, core := t }) :
    Transparent t := by
  obtain ⟨_, _, _, rfl, -⟩ := writeBackStage_frame h
  exact transparent_of_same_storage ht rfl rfl rfl

/-- Memory-access is the one stage that touches the cache and Main: by the read of a LOAD or the write of a STORE. -/
theorem transparent_memoryStage (hs : s.Fits) (ht : Transparent s)
    (h : memoryStage s = .next { xlen := xlen, core := t }) : Transparent t := by
  have hfits := hs.atStage .memoryAccess
  have hat : Transparent (s.atStage .memoryAccess) := transparent_of_same_storage ht rfl rfl rfl
  rcases memoryStage_next h with ⟨-, rfl⟩ | ⟨e, w, -, -, -, -, rfl⟩ | ⟨e, w, v, -, -, -, -, -, rfl⟩ | ⟨e, -, -, -, rfl⟩
  · exact transparent_of_same_storage ht rfl rfl rfl
  · exact transparent_of_same_storage (transparent_memReadState hfits.params hfits.cache hat _) rfl rfl rfl
  · exact transparent_of_same_storage (transparent_memWrite hfits.params hfits.cache hfits.main hat _ v) rfl rfl rfl
  · exact transparent_of_same_storage hat rfl rfl rfl

theorem transparent_executeStage (ht : Transparent s) (h : executeStage s = .next { xlen := xlen, core := t }) :
    Transparent t := by
  obtain ⟨_, _, _, rfl, -⟩ := executeStage_frame h
  exact transparent_of_same_storage ht rfl rfl rfl

theorem transparent_decodeStage (ht : Transparent s) (h : decodeStage s = .next { xlen := xlen, core := t }) :
    Transparent t := by
  obtain ⟨_, _, _, _, _, rfl, -⟩ := decodeStage_frame h
  exact transparent_of_same_storage ht rfl rfl rfl

theorem transparent_fetchStage (ht : Transparent s) (h : fetchStage s = .next { xlen := xlen, core := t }) :
    Transparent t := by
  obtain ⟨_, _, _, rfl, -⟩ := fetchStage_frame h
  exact transparent_of_same_storage ht rfl rfl rfl

/-- After Write-back and Memory-access, as far as a cycle that Execute ends comes, the cache is transparent. -/
theorem transparent_after_memoryStage {s₁ s₂ : CoreState xlen} (hs : s.Fits) (ht : Transparent s)
    (h₁ : writeBackStage s = .next { xlen := xlen, core := s₁ })
    (h₂ : memoryStage s₁ = .next { xlen := xlen, core := s₂ }) : Transparent s₂ :=
  transparent_memoryStage (hs.writeBackStage h₁) (transparent_writeBackStage ht h₁) h₂

end Steps

/-- Settles O55: Memory-access keeps the cache transparent, and nothing else in a step writes the cache or Main. -/
theorem cacheStaysTransparent : Obligations.CacheStaysTransparent := by
  intro xlen s t hwf ht h
  have hs := ((CoreState.wf_iff s).mp hwf).1.hostAction
  have hhost := transparent_hostAction ht
  rcases step_shapes_core h with ⟨-, rfl⟩ | ⟨-, r, -, rfl⟩ | ⟨-, -, hi | hc | hm | he⟩
  · exact ht
  · exact transparent_of_same_storage hhost rfl rfl rfl
  · obtain ⟨-, -, rfl⟩ := hi
    exact transparent_of_same_storage ht rfl rfl rfl
  · obtain ⟨s₁, s₂, s₃, s₄, s₅, h₁, h₂, h₃, h₄, h₅, rfl⟩ := hc
    have ht₃ := transparent_executeStage (transparent_after_memoryStage hs hhost h₁ h₂) h₃
    exact transparent_of_same_storage (transparent_fetchStage (transparent_decodeStage ht₃ h₄) h₅) rfl rfl rfl
  · obtain ⟨s₁, f, r, h₁, -, -, rfl⟩ := hm
    exact transparent_of_same_storage (transparent_writeBackStage hhost h₁) rfl rfl rfl
  · obtain ⟨s₁, s₂, f, r, h₁, h₂, -, -, rfl⟩ := he
    exact transparent_of_same_storage (transparent_after_memoryStage hs hhost h₁ h₂) rfl rfl rfl

end Sys2Proof.Machine

/-! Static validation of an operand list (30_encoding.md R107 to R111): the shape of each opcode, the first bad operand, and
which lists an opcode's instructions come from. -/

namespace Sys2Proof

open Sys2Proof.Machine

variable {xlen numRegs idx : Nat}

/-! ### Shapes -/

theorem fitsClass_r {o : RawOperand} : fitsClass .r o = true ↔ isRegisterName o := by
  cases o <;> simp [fitsClass, RawOperand.isRegister, isRegisterName]

theorem fitsClass_i {o : RawOperand} : fitsClass .i o = true ↔ ∃ v, o = .imm v := by
  cases o <;> simp [fitsClass, RawOperand.isImmediate]

theorem fitsClass_ri {o : RawOperand} : fitsClass .ri o = true ↔ isSource o := by
  rw [isSource, ← fitsClass_r, ← fitsClass_i]
  exact Bool.or_eq_true_iff

/-- Fitting a shape is fitting it class by class. -/
theorem fitsShape_iff {cs : List OperandClass} {os : List RawOperand} :
    fitsShape cs os = true ↔ List.Forall₂ (fun c o => fitsClass c o = true) cs os := by
  induction cs generalizing os with
  | nil => cases os <;> simp [fitsShape]
  | cons c cs ih => cases os <;> simp [fitsShape, ih]

/-- The shape table is the table of R107. -/
theorem fitsShape_iff_admits {op : Opcode} {os : List RawOperand} : fitsShape (shapeOf op) os = true ↔ admits op os := by
  rw [fitsShape_iff]
  cases op <;>
    simp only [shapeOf, admits, List.forall₂_cons_left_iff, List.forall₂_nil_left_iff, fitsClass_r, fitsClass_i, fitsClass_ri]
  case add | sub | mul | and | shl =>
    constructor
    · rintro ⟨rd, -, hrd, ⟨a, -, ha, ⟨b, -, hb, rfl, rfl⟩, rfl⟩, rfl⟩
      exact ⟨rd, a, b, rfl, hrd, ha, hb⟩
    · rintro ⟨rd, a, b, rfl, hrd, ha, hb⟩
      exact ⟨rd, _, hrd, ⟨a, _, ha, ⟨b, _, hb, rfl, rfl⟩, rfl⟩, rfl⟩
  case mov | load | store | cmp =>
    constructor
    · rintro ⟨r, -, hr, ⟨a, -, ha, rfl, rfl⟩, rfl⟩
      exact ⟨r, a, rfl, hr, ha⟩
    · rintro ⟨r, a, rfl, hr, ha⟩
      exact ⟨r, _, hr, ⟨a, _, ha, rfl, rfl⟩, rfl⟩
  case jmp | jz | jnz | je =>
    constructor
    · rintro ⟨-, -, ⟨v, rfl⟩, rfl, rfl⟩
      exact ⟨v, rfl⟩
    · rintro ⟨v, rfl⟩
      exact ⟨_, _, ⟨v, rfl⟩, rfl, rfl⟩

/-- An instruction's operands fit its opcode's shape, in any form that keeps registers and immediates apart. -/
theorem fitsShape_operands (i : Instr) (form : Operand → RawOperand) (hreg : ∀ k, (form (.reg k)).isRegister = true)
    (himm : ∀ v, (form (.imm v)).isImmediate = true) : fitsShape (shapeOf i.opcode) (i.operands.map form) = true := by
  have hri (o : Operand) : fitsClass .ri (form o) = true := by
    cases o with
    | reg k => simp [fitsClass, hreg]
    | imm v => simp [fitsClass, himm]
  have hr (k : Nat) : fitsClass .r (form (.reg k)) = true := hreg k
  have hi (v : Int) : fitsClass .i (form (.imm v)) = true := himm v
  cases i <;> simp [Instr.opcode, Instr.operands, shapeOf, fitsShape, hri, hr, hi]

/-! ### The first bad operand -/

/-- A register check refuses exactly the names R110 rules out. -/
theorem badRegister_eq_some_iff {o : RawOperand} {name : RegName} :
    badRegister numRegs o = some name ↔ namesMissing numRegs o name := by
  cases o <;> simp [badRegister, namesMissing, eq_comm]

theorem badRegister_eq_none_iff {o : RawOperand} :
    badRegister numRegs o = none ↔ ∀ name, ¬ namesMissing numRegs o name := by
  simp only [Option.eq_none_iff_forall_ne_some, ← badRegister_eq_some_iff, ne_eq]

/-- An immediate check refuses exactly the immediates outside the range of R109. -/
theorem badImmediate_eq_some_iff {o : RawOperand} {v : Int} :
    badImmediate xlen o = some v ↔ o = .imm v ∧ inSignedRange xlen v = false := by
  cases o with
  | imm u =>
    rw [badImmediate, immediateInRange, RawOperand.imm.injEq]
    constructor
    · intro h
      split at h
      · cases h
      · cases h
        exact ⟨rfl, Bool.eq_false_of_not_eq_true ‹_›⟩
    · rintro ⟨rfl, hout⟩
      rw [hout, if_neg Bool.false_ne_true]
  | reg | pc | zFlag | unreadable => simp [badImmediate]

theorem badImmediate_eq_none_iff {o : RawOperand} :
    badImmediate xlen o = none ↔ ∀ v, o = .imm v → inSignedRange xlen v = true := by
  simp [Option.eq_none_iff_forall_ne_some, badImmediate_eq_some_iff]

/-- The first operand a check refuses, from position `pos` on, with what the check reports of it. -/
def firstBad {α : Type} (bad : RawOperand → Option α) : Nat → List RawOperand → Option (Nat × α)
  | _, [] => none
  | pos, o :: os =>
    match bad o with
    | some r => some (pos, r)
    | none => firstBad bad (pos + 1) os

theorem firstBadRegister_eq (pos : Nat) (os : List RawOperand) :
    firstBadRegister numRegs pos os = firstBad (badRegister numRegs) pos os := by
  induction os generalizing pos with
  | nil => rfl
  | cons o os ih => cases h : badRegister numRegs o <;> simp [firstBadRegister, firstBad, h, ih]

theorem firstBadImmediate_eq (pos : Nat) (os : List RawOperand) :
    firstBadImmediate xlen pos os = firstBad (badImmediate xlen) pos os := by
  induction os generalizing pos with
  | nil => rfl
  | cons o os ih => cases h : badImmediate xlen o <;> simp [firstBadImmediate, firstBad, h, ih]

/-- What is reported is a refused operand at its position. -/
theorem getElem?_of_firstBad {α : Type} {bad : RawOperand → Option α} {os : List RawOperand} {pos p : Nat} {r : α}
    (h : firstBad bad pos os = some (p, r)) : ∃ j o, p = pos + j ∧ os[j]? = some o ∧ bad o = some r := by
  induction os generalizing pos with
  | nil => cases h
  | cons o os ih =>
    cases hb : bad o with
    | some r' =>
      simp only [firstBad, hb, Option.some.injEq, Prod.mk.injEq] at h
      obtain ⟨rfl, rfl⟩ := h
      exact ⟨0, o, rfl, rfl, hb⟩
    | none =>
      simp only [firstBad, hb] at h
      obtain ⟨j, o', rfl, ho', hr⟩ := ih h
      exact ⟨j + 1, o', by omega, ho', hr⟩

/-- A refused operand with none before it is the one reported. -/
theorem firstBad_eq_some {α : Type} {bad : RawOperand → Option α} {os : List RawOperand} {pos j : Nat} {o : RawOperand}
    {r : α} (ho : os[j]? = some o) (hr : bad o = some r) (hbefore : ∀ k < j, ∀ o', os[k]? = some o' → bad o' = none) :
    firstBad bad pos os = some (pos + j, r) := by
  induction os generalizing pos j with
  | nil => cases ho
  | cons o' os ih =>
    cases j with
    | zero =>
      cases ho
      simp [firstBad, hr]
    | succ j =>
      have htail := ih (pos := pos + 1) ho fun k hk => hbefore (k + 1) (by omega)
      simp only [firstBad, hbefore 0 (by omega) o' rfl, htail]
      congr 2
      omega

/-! ### The checks in their order -/

section Checks

variable {op : Opcode} {os : List RawOperand}

theorem validateOperands_unfit (h : fitsShape (shapeOf op) os = false) :
    validateOperands xlen numRegs idx op os = .error (staticFault .malformedOperands idx .nothing) := by
  simp [validateOperands, h]

theorem validateOperands_badRegister {pos : Nat} {name : RegName} (hfits : fitsShape (shapeOf op) os = true)
    (h : firstBad (badRegister numRegs) 0 os = some (pos, name)) :
    validateOperands xlen numRegs idx op os = .error (staticFault .invalidRegister idx (.register pos name)) := by
  simp [validateOperands, hfits, firstBadRegister_eq, h]

theorem validateOperands_badImmediate {pos : Nat} {v : Int} (hfits : fitsShape (shapeOf op) os = true)
    (hregs : ∀ o ∈ os, badRegister numRegs o = none) (h : firstBad (badImmediate xlen) 0 os = some (pos, v)) :
    validateOperands xlen numRegs idx op os = .error (staticFault .immediateOutOfRange idx (.immediate pos v)) := by
  simp [validateOperands, hfits, firstBadRegister_eq_none.mpr hregs, firstBadImmediate_eq, h]

theorem validateOperands_pass {i : Instr} (hfits : fitsShape (shapeOf op) os = true)
    (hpass : ∀ o ∈ os, o.passes xlen numRegs) (hbuild : build op os = some i) :
    validateOperands xlen numRegs idx op os = .ok i := by
  have hregs := firstBadRegister_eq_none (pos := 0) |>.mpr fun o ho => (hpass o ho).1
  have himms := firstBadImmediate_eq_none (pos := 0) |>.mpr fun o ho => (hpass o ho).2
  simp [validateOperands, hfits, hregs, himms, hbuild]

end Checks

/-! ### The instruction of an operand list -/

@[simp] theorem toOperand_rawOperand (o : Operand) : (rawOperand o).toOperand = some o := by
  cases o <;> rfl

theorem passes_rawOperand {o : Operand} : (rawOperand o).passes xlen numRegs ↔ o.wf xlen numRegs = true := by
  cases o with
  | reg k => simp [rawOperand, RawOperand.passes_reg, Operand.wf]
  | imm v => exact RawOperand.passes_imm

/-- An instruction is well formed when its operands are. -/
theorem Instr.wf_iff_operands (i : Instr) : i.wf xlen numRegs = true ↔ ∀ o ∈ i.operands, o.wf xlen numRegs = true := by
  cases i <;> simp [Instr.wf, Instr.operands, Operand.wf, and_assoc]

@[simp] theorem build3_rawOperand (f : Nat → Operand → Operand → Instr) (rd : Nat) (a b : Operand) :
    build3 f [rawOperand (.reg rd), rawOperand a, rawOperand b] = some (f rd a b) := by
  rw [rawOperand, build3, toOperand_rawOperand, toOperand_rawOperand]

@[simp] theorem build2_rawOperand (f : Nat → Operand → Instr) (rd : Nat) (a : Operand) :
    build2 f [rawOperand (.reg rd), rawOperand a] = some (f rd a) := by
  rw [rawOperand, build2, toOperand_rawOperand]

@[simp] theorem buildCompare_rawOperand (f : Operand → Operand → Instr) (a b : Operand) :
    buildCompare f [rawOperand a, rawOperand b] = some (f a b) := by
  rw [buildCompare, toOperand_rawOperand, toOperand_rawOperand]

@[simp] theorem buildBranch_rawOperand (f : Int → Instr) (t : Int) :
    buildBranch f [rawOperand (.imm t)] = some (f t) := rfl

/-- An instruction is built from its own record. -/
theorem build_operands (i : Instr) : build i.opcode (i.operands.map rawOperand) = some i := by
  cases i <;> simp [Instr.opcode, Instr.operands, build]

theorem isRegisterName.exists_index {o : RawOperand} (h : isRegisterName o) (ho : badRegister numRegs o = none) :
    ∃ k, o = rawOperand (.reg k) := by
  rcases h with ⟨k, rfl⟩ | rfl | rfl
  · exact ⟨k, rfl⟩
  · cases ho
  · cases ho

theorem isSource.exists_operand {o : RawOperand} (h : isSource o) (ho : badRegister numRegs o = none) :
    ∃ p, o = rawOperand p := by
  rcases h with h | ⟨v, rfl⟩
  · obtain ⟨k, rfl⟩ := h.exists_index ho
    exact ⟨.reg k, rfl⟩
  · exact ⟨.imm v, rfl⟩

/-- A list an opcode admits, without `PC` and `Z`, is the record of the instruction built from it. -/
theorem exists_build_of_admits {op : Opcode} {os : List RawOperand} (h : admits op os)
    (hregs : ∀ o ∈ os, badRegister numRegs o = none) :
    ∃ i, build op os = some i ∧ i.opcode = op ∧ i.operands.map rawOperand = os := by
  cases op
  case nop =>
    cases h
    exact ⟨.nop, rfl, rfl, rfl⟩
  case add | sub | mul | and | shl =>
    obtain ⟨rd, a, b, rfl, hrd, ha, hb⟩ := h
    simp only [List.forall_mem_cons] at hregs
    obtain ⟨hrd', ha', hb', -⟩ := hregs
    obtain ⟨k, rfl⟩ := hrd.exists_index hrd'
    obtain ⟨p, rfl⟩ := ha.exists_operand ha'
    obtain ⟨q, rfl⟩ := hb.exists_operand hb'
    exact ⟨_, build3_rawOperand _ k p q, rfl, rfl⟩
  case mov | load | store =>
    obtain ⟨r, a, rfl, hr, ha⟩ := h
    simp only [List.forall_mem_cons] at hregs
    obtain ⟨hr', ha', -⟩ := hregs
    obtain ⟨k, rfl⟩ := hr.exists_index hr'
    obtain ⟨p, rfl⟩ := ha.exists_operand ha'
    exact ⟨_, build2_rawOperand _ k p, rfl, rfl⟩
  case cmp =>
    obtain ⟨a, b, rfl, ha, hb⟩ := h
    simp only [List.forall_mem_cons] at hregs
    obtain ⟨ha', hb', -⟩ := hregs
    obtain ⟨p, rfl⟩ := ha.exists_operand ha'
    obtain ⟨q, rfl⟩ := hb.exists_operand hb'
    exact ⟨_, buildCompare_rawOperand _ p q, rfl, rfl⟩
  case jmp | jz | jnz | je =>
    obtain ⟨t, rfl⟩ := h
    exact ⟨_, buildBranch_rawOperand _ t, rfl, rfl⟩

/-- What static validation accepts: the records of the well-formed instructions, each as its own instruction. -/
theorem validateOperands_eq_ok_iff {op : Opcode} {os : List RawOperand} {i : Instr} :
    validateOperands xlen numRegs idx op os = .ok i ↔
      i.opcode = op ∧ i.operands.map rawOperand = os ∧ i.wf xlen numRegs = true := by
  constructor
  · intro h
    obtain ⟨hpass, hbuild⟩ := validateOperands_ok h
    have hfits : fitsShape (shapeOf op) os = true := by
      by_contra hf
      rw [validateOperands_unfit (Bool.eq_false_of_not_eq_true hf)] at h
      cases h
    obtain ⟨j, hj, hop, hos⟩ := exists_build_of_admits (fitsShape_iff_admits.mp hfits) fun o ho => (hpass o ho).1
    obtain rfl : i = j := Option.some.inj (hbuild.symm.trans hj)
    exact ⟨hop, hos, validateOperands_wf h⟩
  · rintro ⟨rfl, rfl, hwf⟩
    refine validateOperands_pass (fitsShape_operands i _ (fun _ => rfl) (fun _ => rfl)) ?_ (build_operands i)
    simpa [passes_rawOperand] using i.wf_iff_operands.mp hwf

/-! ### Records and programs -/

theorem validateRecord_eq {r : Record} {op : Opcode} (h : opcodeOf r.op = some op) :
    validateRecord xlen numRegs idx r = validateOperands xlen numRegs idx op r.operands := by
  simp [validateRecord, h]

/-- Settles O7: each check of `validateOperands` is reached when the checks before it pass, and a list that passes them all
is the record of an instruction. -/
theorem recordOperandsAreChecked : Obligations.RecordOperandsAreChecked := by
  intro xlen numRegs idx r op hop
  rw [validateRecord_eq hop]
  refine ⟨fun hunfit => ?_, fun hadm => ⟨fun pos o name ho hname hbefore => ?_, fun hnames => ⟨?_, ?_⟩⟩⟩
  · exact validateOperands_unfit (Bool.eq_false_of_not_eq_true fun hf => hunfit (fitsShape_iff_admits.mp hf))
  · have hfirst := firstBad_eq_some (pos := 0) ho (badRegister_eq_some_iff.mpr hname) fun j hj o' ho' =>
      badRegister_eq_none_iff.mpr (hbefore j hj o' ho')
    rw [Nat.zero_add] at hfirst
    exact validateOperands_badRegister (fitsShape_iff_admits.mpr hadm) hfirst
  · intro pos v hv hout hbefore
    have hbad : badImmediate xlen (.imm v) = some v :=
      badImmediate_eq_some_iff.mpr ⟨rfl, Bool.eq_false_of_not_eq_true (mt (inSignedRange_iff v).mp hout)⟩
    have hfirst := firstBad_eq_some (pos := 0) hv hbad fun j hj o' ho' =>
      badImmediate_eq_none_iff.mpr fun u hu => (inSignedRange_iff u).mpr (hbefore j hj u (hu ▸ ho'))
    rw [Nat.zero_add] at hfirst
    exact validateOperands_badImmediate (fitsShape_iff_admits.mpr hadm)
      (fun o ho => badRegister_eq_none_iff.mpr (hnames o ho)) hfirst
  · intro himms
    have hregs : ∀ o ∈ r.operands, badRegister numRegs o = none := fun o ho => badRegister_eq_none_iff.mpr (hnames o ho)
    have hpass : ∀ o ∈ r.operands, o.passes xlen numRegs := fun o ho =>
      ⟨hregs o ho, badImmediate_eq_none_iff.mpr fun v hv => (inSignedRange_iff v).mpr (himms v (hv ▸ ho))⟩
    obtain ⟨i, hbuild, hrecord⟩ := exists_build_of_admits hadm hregs
    exact ⟨i, validateOperands_pass (fitsShape_iff_admits.mpr hadm) hpass hbuild, hrecord⟩

section Programs

variable {prog : List (ProgItem xlen)}

/-- The first element that fails, counting from index `idx`, gives the program's fault. -/
theorem firstStaticFault_eq_some {k : Nat} {item : ProgItem xlen} {r : FaultRecord} (hk : prog[k]? = some item)
    (hr : decodeItem numRegs (idx + k) item = .error r)
    (hbefore : ∀ j < k, ∀ it, prog[j]? = some it → ∃ i, decodeItem numRegs (idx + j) it = .ok i) :
    firstStaticFault numRegs idx prog = some r := by
  induction prog generalizing idx k with
  | nil => cases hk
  | cons p ps ih =>
    cases k with
    | zero =>
      cases hk
      simp only [Nat.add_zero] at hr
      simp [firstStaticFault, hr]
    | succ k =>
      obtain ⟨i, hi⟩ := hbefore 0 (by omega) p rfl
      simp only [Nat.add_zero] at hi
      simp only [firstStaticFault, hi]
      refine ih hk (by rwa [Nat.succ_add_eq_add_succ]) fun j hj it hit => ?_
      rw [Nat.succ_add_eq_add_succ]
      exact hbefore (j + 1) (by omega) it hit

theorem firstStaticFault_eq_none
    (h : ∀ j it, prog[j]? = some it → ∃ i, decodeItem numRegs (idx + j) it = .ok i) :
    firstStaticFault numRegs idx prog = none := by
  induction prog generalizing idx with
  | nil => rfl
  | cons p ps ih =>
    obtain ⟨i, hi⟩ := h 0 p rfl
    simp only [Nat.add_zero] at hi
    simp only [firstStaticFault, hi]
    refine ih fun j it hit => ?_
    rw [Nat.succ_add_eq_add_succ]
    exact h (j + 1) it hit

end Programs

/-- Settles O8: validation goes through the program from index 0 and stops at the first element that fails. -/
theorem firstFailingIndexRefusesProgram : Obligations.FirstFailingIndexRefusesProgram := by
  intro xlen p prog
  refine ⟨fun k item r hk hr hbefore => ?_, fun h => ?_⟩
  · have hfault := firstStaticFault_eq_some (idx := 0) hk (by rwa [Nat.zero_add])
      (by simpa only [Nat.zero_add] using hbefore)
    simp [loadStatus, hfault]
  · have hfault := firstStaticFault_eq_none (idx := 0) (by simpa only [Nat.zero_add] using h)
    simp [loadStatus, hfault]

end Sys2Proof

/-! The record word (30_encoding.md R103 to R106, R112): what a slot holds, what a word's opcode and slots decode to, and
the round trip between a word and its instruction. -/

namespace Sys2Proof

open Sys2Proof.Machine

variable {xlen numRegs idx : Nat}

/-! ### Opcode codes -/

theorem opcodeOfCode_code (op : Opcode) : opcodeOfCode op.code = some op := by
  cases op <;> rfl

/-- An opcode's code fits the opcode field. -/
theorem toNat_ofNat_code (op : Opcode) : (BitVec.ofNat 4 op.code).toNat = op.code := by
  cases op <;> rfl

theorem code_of_opcodeOfCode {c : Nat} {op : Opcode} (h : opcodeOfCode c = some op) : op.code = c := by
  unfold opcodeOfCode at h
  split at h <;> cases h <;> rfl

theorem opcodeOfCode_eq_none {c : Nat} (h : 14 ≤ c) : opcodeOfCode c = none := by
  obtain ⟨k, rfl⟩ := Nat.exists_eq_add_of_le' h
  rfl

theorem exists_opcodeOfCode {c : Nat} (h : c < 14) : ∃ op, opcodeOfCode c = some op := by
  interval_cases c <;> exact ⟨_, rfl⟩

/-! ### Decoding a word, check by check -/

section DecodeWord

variable {w : RecordWord xlen} {op : Opcode}

theorem decodeWord_unknown (h : opcodeOfCode (opcField w).toNat = none) :
    decodeWord numRegs idx w = .error (staticFault .unknownOpcode idx (.opcode (.code (opcField w).toNat))) := by
  simp [decodeWord, h]

theorem decodeWord_malformed (hop : opcodeOfCode (opcField w).toNat = some op) (h : wordOperands w = none) :
    decodeWord numRegs idx w = .error (staticFault .malformedOperands idx .nothing) := by
  simp [decodeWord, hop, h]

theorem decodeWord_operands {os : List RawOperand} (hop : opcodeOfCode (opcField w).toNat = some op)
    (h : wordOperands w = some os) : decodeWord numRegs idx w = validateOperands xlen numRegs idx op os := by
  simp [decodeWord, hop, h]

/-- An accepted word is its instruction's opcode and operands, which are well formed. -/
theorem decodeWord_eq_ok_iff {i : Instr} :
    decodeWord numRegs idx w = .ok i ↔ (opcField w).toNat = i.opcode.code ∧
      wordOperands w = some (i.operands.map rawOperand) ∧ i.wf xlen numRegs = true := by
  constructor
  · intro h
    cases hop : opcodeOfCode (opcField w).toNat with
    | none => simp [decodeWord_unknown hop] at h
    | some op =>
      cases hos : wordOperands w with
      | none => simp [decodeWord_malformed hop hos] at h
      | some os =>
        rw [decodeWord_operands hop hos] at h
        obtain ⟨rfl, rfl, hwf⟩ := validateOperands_eq_ok_iff.mp h
        exact ⟨(code_of_opcodeOfCode hop).symm, rfl, hwf⟩
  · rintro ⟨hop, hos, hwf⟩
    rw [decodeWord_operands (by rw [hop]; exact opcodeOfCode_code _) hos]
    exact validateOperands_eq_ok_iff.mpr ⟨rfl, rfl, hwf⟩

end DecodeWord

/-! ### Slots -/

/-- The slot of an operand list's place: the operand there, or a none slot past the last one (R103). -/
def Slot.ofOperand : Option RawOperand → Slot
  | some o => .operand o
  | none => .empty

/-- Three slots are an operand list when they are its places, and none is left over. -/
theorem operandsOfSlots_eq_some_iff {s₀ s₁ s₂ : Slot} {os : List RawOperand} :
    operandsOfSlots s₀ s₁ s₂ = some os ↔
      os.length ≤ 3 ∧ s₀ = .ofOperand os[0]? ∧ s₁ = .ofOperand os[1]? ∧ s₂ = .ofOperand os[2]? := by
  constructor
  · intro h
    unfold operandsOfSlots at h
    split at h <;> cases h <;> simp [Slot.ofOperand]
  · rintro ⟨hlen, rfl, rfl, rfl⟩
    match os, hlen with
    | [], _ => rfl
    | [_], _ => rfl
    | [_, _], _ => rfl
    | [_, _, _], _ => rfl

theorem wordOperands_eq_some_iff {w : RecordWord xlen} {os : List RawOperand} :
    wordOperands w = some os ↔ os.length ≤ 3 ∧ slotOf (kind0 w) (value0 w) = .ofOperand os[0]? ∧
      slotOf (kind1 w) (value1 w) = .ofOperand os[1]? ∧ slotOf (kind2 w) (value2 w) = .ofOperand os[2]? :=
  operandsOfSlots_eq_some_iff

/-- A slot that is not malformed is a register's, an immediate's or a none slot (R104). -/
theorem slotOf_eq_ofOperand_iff {k : BitVec 2} {v : Word xlen} {o : Option RawOperand} :
    slotOf k v = .ofOperand o ↔
      (k = 0b01#2 ∧ o = some (.reg (ux v))) ∨ (k = 0b10#2 ∧ o = some (.imm (sx v))) ∨ (k = 0b00#2 ∧ v = 0 ∧ o = none) := by
  constructor
  · intro h
    unfold slotOf at h
    split_ifs at h with hnone hzero hreg himm <;> cases o <;> cases h
    · exact .inr (.inr ⟨hnone, hzero, rfl⟩)
    · exact .inl ⟨hreg, rfl⟩
    · exact .inr (.inl ⟨himm, rfl⟩)
  · rintro (⟨rfl, rfl⟩ | ⟨rfl, rfl⟩ | ⟨rfl, rfl, rfl⟩)
    · exact slotOf_reg v
    · exact slotOf_imm v
    · exact slotOf_empty

theorem slotReads_of_slotOf {k : BitVec 2} {v : Word xlen} {o : Option Operand}
    (h : slotOf k v = .ofOperand (o.map rawOperand)) : slotReads k v o := by
  rcases slotOf_eq_ofOperand_iff.mp h with ⟨hk, ho⟩ | ⟨hk, ho⟩ | ⟨hk, hv, ho⟩
  · rcases o with _ | _ | _ <;> cases ho
    exact .inl ⟨hk, rfl⟩
  · rcases o with _ | _ | _ <;> cases ho
    exact .inr (.inl ⟨hk, rfl⟩)
  · exact .inr (.inr ⟨hk, hv, Option.map_eq_none_iff.mp ho⟩)

section SlotKinds

variable {k : BitVec 2} {v : Word xlen} {o : Option RawOperand}

theorem kind_ne_reserved (h : slotOf k v = .ofOperand o) : k ≠ 0b11#2 := by
  rcases slotOf_eq_ofOperand_iff.mp h with ⟨rfl, -⟩ | ⟨rfl, -⟩ | ⟨rfl, -⟩ <;> decide

theorem kind_none_iff (h : slotOf k v = .ofOperand o) : k = 0b00#2 ↔ o = none := by
  rcases slotOf_eq_ofOperand_iff.mp h with ⟨rfl, rfl⟩ | ⟨rfl, rfl⟩ | ⟨rfl, -, rfl⟩ <;> simp

theorem value_eq_zero_of_kind_none (h : slotOf k v = .ofOperand o) (hk : k = 0b00#2) : v = 0 := by
  rcases slotOf_eq_ofOperand_iff.mp h with ⟨rfl, -⟩ | ⟨rfl, -⟩ | ⟨-, hv, -⟩
  · cases hk
  · cases hk
  · exact hv

/-- The slots of an operand list have no gap: past a none slot stand none slots. -/
theorem kind_none_of_le {k' : BitVec 2} {v' : Word xlen} {os : List RawOperand} {a b : Nat} (hab : a ≤ b)
    (ha : slotOf k v = .ofOperand os[a]?) (hb : slotOf k' v' = .ofOperand os[b]?) (hk : k = 0b00#2) : k' = 0b00#2 := by
  have hend : os.length ≤ a := List.getElem?_eq_none_iff.mp ((kind_none_iff ha).mp hk)
  exact (kind_none_iff hb).mpr (List.getElem?_eq_none_iff.mpr (hend.trans hab))

theorem kind_of_isRegisterName {r : RawOperand} (h : slotOf k v = .ofOperand (some r)) (hr : isRegisterName r) :
    k = 0b01#2 := by
  rcases slotOf_eq_ofOperand_iff.mp h with ⟨hk, -⟩ | ⟨-, ho⟩ | ⟨-, -, ho⟩
  · exact hk
  · cases ho
    simp [isRegisterName] at hr
  · cases ho

theorem kind_of_immediate {u : Int} (h : slotOf k v = .ofOperand (some (.imm u))) : k = 0b10#2 := by
  rcases slotOf_eq_ofOperand_iff.mp h with ⟨-, ho⟩ | ⟨hk, -⟩ | ⟨-, -, ho⟩
  · cases ho
  · exact hk
  · cases ho

theorem regOrImmKind_of_operand {r : RawOperand} (h : slotOf k v = .ofOperand (some r)) : regOrImmKind k := by
  rcases slotOf_eq_ofOperand_iff.mp h with ⟨hk, -⟩ | ⟨hk, -⟩ | ⟨-, -, ho⟩
  · exact .inl hk
  · exact .inr hk
  · cases ho

end SlotKinds

/-- The slots of an operand list that an opcode admits have the kinds of its row (R107). -/
theorem kindsAdmitted_of_admits {w : RecordWord xlen} {op : Opcode} {os : List RawOperand}
    (hos : wordOperands w = some os) (h : admits op os) : kindsAdmitted op (kind0 w) (kind1 w) (kind2 w) := by
  obtain ⟨-, h₀, h₁, h₂⟩ := wordOperands_eq_some_iff.mp hos
  cases op
  case nop =>
    cases h
    exact ⟨(kind_none_iff h₀).mpr rfl, (kind_none_iff h₁).mpr rfl, (kind_none_iff h₂).mpr rfl⟩
  case add | sub | mul | and | shl =>
    obtain ⟨rd, a, b, rfl, hrd, -, -⟩ := h
    exact ⟨kind_of_isRegisterName h₀ hrd, regOrImmKind_of_operand h₁, regOrImmKind_of_operand h₂⟩
  case mov | load | store =>
    obtain ⟨r, a, rfl, hr, -⟩ := h
    exact ⟨kind_of_isRegisterName h₀ hr, regOrImmKind_of_operand h₁, (kind_none_iff h₂).mpr rfl⟩
  case cmp =>
    obtain ⟨a, b, rfl, -, -⟩ := h
    exact ⟨regOrImmKind_of_operand h₀, regOrImmKind_of_operand h₁, (kind_none_iff h₂).mpr rfl⟩
  case jmp | jz | jnz | je =>
    obtain ⟨t, rfl⟩ := h
    exact ⟨kind_of_immediate h₀, (kind_none_iff h₁).mpr rfl, (kind_none_iff h₂).mpr rfl⟩

/-! ### The encoded word -/

/-- The kind field of an operand list's place. -/
def Operand.kindField : Option Operand → BitVec 2
  | some o => o.kind
  | none => kindNone

/-- The value field of an operand list's place. -/
def Operand.valueField (xlen : Nat) : Option Operand → Word xlen
  | some o => o.slotValue xlen
  | none => 0

/-- The operand a slot reads back from an operand's slot value: a register index modulo `2^XLEN`, an immediate as the signed
value of its word (R104). -/
def Operand.readBack (xlen : Nat) : Operand → RawOperand
  | .reg k => .reg (ux (Operand.slotValue xlen (.reg k)))
  | .imm v => .imm (sx (word xlen v))

theorem Instr.length_operands_le (i : Instr) : i.operands.length ≤ 3 := by
  cases i <;> simp [Instr.operands]

/-- The encoder fills each slot from its place in the operand list. -/
theorem encode_eq_packWord (i : Instr) :
    encode xlen i = packWord (BitVec.ofNat 4 i.opcode.code)
      (Operand.kindField i.operands[0]?) (Operand.kindField i.operands[1]?) (Operand.kindField i.operands[2]?)
      (Operand.valueField xlen i.operands[0]?) (Operand.valueField xlen i.operands[1]?)
      (Operand.valueField xlen i.operands[2]?) := by
  cases i <;> rfl

theorem slotOf_fields (o : Option Operand) :
    slotOf (Operand.kindField o) (Operand.valueField xlen o) = .ofOperand (o.map (Operand.readBack xlen)) := by
  rcases o with _ | k | v
  · exact slotOf_empty
  · exact slotOf_reg _
  · exact slotOf_imm _

/-- A slot determines its kind and value fields from the operand it reads as. -/
theorem fields_of_slotReads {k : BitVec 2} {v : Word xlen} {o : Option Operand} (h : slotReads k v o) :
    Operand.kindField o = k ∧ Operand.valueField xlen o = v := by
  rcases h with ⟨rfl, rfl⟩ | ⟨rfl, rfl⟩ | ⟨rfl, rfl, rfl⟩
  · exact ⟨rfl, (BitVec.ofNat_toNat xlen v).trans v.setWidth_eq⟩
  · exact ⟨rfl, word_sx v⟩
  · exact ⟨rfl, rfl⟩

theorem opcField_encode (i : Instr) : (opcField (encode xlen i)).toNat = i.opcode.code := by
  rw [encode_eq_packWord, opcField_packWord, toNat_ofNat_code]

theorem wordOperands_encode (i : Instr) :
    wordOperands (encode xlen i) = some (i.operands.map (Operand.readBack xlen)) := by
  rw [wordOperands_eq_some_iff, encode_eq_packWord, kind0_packWord, kind1_packWord, kind2_packWord, value0_packWord,
    value1_packWord, value2_packWord, List.length_map, List.getElem?_map, List.getElem?_map, List.getElem?_map]
  exact ⟨i.length_operands_le, slotOf_fields _, slotOf_fields _, slotOf_fields _⟩

theorem Operand.readBack_reg {k : Nat} (h : k < 2 ^ xlen) : Operand.readBack xlen (.reg k) = .reg k := by
  rw [readBack, ux_slotValue_reg h]

/-- A well-formed operand of a machine whose register indices fit a slot is read back as it is. -/
theorem Operand.readBack_of_wf {o : Operand} (hx : 1 ≤ xlen) (hn : numRegs ≤ 2 ^ xlen) (h : o.wf xlen numRegs = true) :
    o.readBack xlen = rawOperand o := by
  cases o with
  | reg k => exact readBack_reg (Nat.lt_of_lt_of_le (of_decide_eq_true h) hn)
  | imm v => rw [readBack, sx_word hx h, rawOperand]

/-- Settles O1: the encoded word has the opcode's code and reads back as the instruction's operands, and such a word is
accepted. -/
theorem encodedInstructionDecodesBack : Obligations.EncodedInstructionDecodesBack := by
  intro xlen numRegs idx i hx hn hwf
  have hread : i.operands.map (Operand.readBack xlen) = i.operands.map rawOperand :=
    List.map_congr_left fun o ho => Operand.readBack_of_wf (by omega) hn (i.wf_iff_operands.mp hwf o ho)
  exact decodeWord_eq_ok_iff.mpr ⟨opcField_encode i, by rw [wordOperands_encode, hread], hwf⟩

/-- Settles O2: an accepted word's slots read as its instruction's operands, and the fields an operand is read from are those
the encoder writes for it. -/
theorem acceptedWordReadsAsItsRecord : Obligations.AcceptedWordReadsAsItsRecord := by
  intro xlen numRegs idx w i h
  obtain ⟨hop, hos, -⟩ := decodeWord_eq_ok_iff.mp h
  rw [wordOperands_eq_some_iff, List.getElem?_map, List.getElem?_map, List.getElem?_map] at hos
  obtain ⟨-, h₀, h₁, h₂⟩ := hos
  have hr₀ := slotReads_of_slotOf h₀
  have hr₁ := slotReads_of_slotOf h₁
  have hr₂ := slotReads_of_slotOf h₂
  refine ⟨hop, hr₀, hr₁, hr₂, ?_⟩
  obtain ⟨hk₀, hv₀⟩ := fields_of_slotReads hr₀
  obtain ⟨hk₁, hv₁⟩ := fields_of_slotReads hr₁
  obtain ⟨hk₂, hv₂⟩ := fields_of_slotReads hr₂
  rw [encode_eq_packWord, ← hop, BitVec.ofNat_toNat, BitVec.setWidth_eq, hk₀, hk₁, hk₂, hv₀, hv₁, hv₂, packWord_fields]

/-! ### Refused words -/

/-- Settles O4: the opcode table has no row from 14 on. -/
theorem reservedOpcodeIsUnknown : Obligations.ReservedOpcodeIsUnknown :=
  fun _ _ _ _ h => decodeWord_unknown (opcodeOfCode_eq_none h)

/-- A word with no operand list that its opcode admits is malformed. -/
theorem decodeWord_not_admitted {w : RecordWord xlen} {op : Opcode} (hop : opcodeOfCode (opcField w).toNat = some op)
    (h : ∀ os, wordOperands w = some os → ¬ admits op os) :
    decodeWord numRegs idx w = .error (staticFault .malformedOperands idx .nothing) := by
  cases hos : wordOperands w with
  | none => exact decodeWord_malformed hop hos
  | some os =>
    rw [decodeWord_operands hop hos]
    exact validateOperands_unfit (Bool.eq_false_of_not_eq_true (mt fitsShape_iff_admits.mp (h os hos)))

/-- Settles O5: the slots of a word with an admitted operand list have no reserved kind, no value without an operand, no gap,
and the kinds of its row; the program's refusal is O8 at its one index. -/
theorem malformedWordIsRefused : Obligations.MalformedWordIsRefused := by
  intro xlen numRegs idx w hknown hbad
  obtain ⟨op, hop⟩ := exists_opcodeOfCode hknown
  have hnot : ∀ os, wordOperands w = some os → ¬ admits op os := by
    intro os hos hadm
    obtain ⟨-, h₀, h₁, h₂⟩ := wordOperands_eq_some_iff.mp hos
    rcases hbad with hk | hk | hk | ⟨hk, hv⟩ | ⟨hk, hv⟩ | ⟨hk, hv⟩ | ⟨hk, hu⟩ | ⟨hk, hu⟩ | ⟨hk, hu⟩ | ⟨op', hop', hkinds⟩
    · exact kind_ne_reserved h₀ hk
    · exact kind_ne_reserved h₁ hk
    · exact kind_ne_reserved h₂ hk
    · exact hv (value_eq_zero_of_kind_none h₀ hk)
    · exact hv (value_eq_zero_of_kind_none h₁ hk)
    · exact hv (value_eq_zero_of_kind_none h₂ hk)
    · exact hu (kind_none_of_le (by decide) h₀ h₁ hk)
    · exact hu (kind_none_of_le (by decide) h₀ h₂ hk)
    · exact hu (kind_none_of_le (by decide) h₁ h₂ hk)
    · obtain rfl : op = op' := Option.some.inj (hop.symm.trans hop')
      exact hkinds (kindsAdmitted_of_admits hos hadm)
  refine ⟨decodeWord_not_admitted hop hnot, fun p => ?_⟩
  have hindex₀ := firstFailingIndexRefusesProgram xlen p [.word w] |>.1 0 (.word w)
  exact hindex₀ _ rfl (decodeWord_not_admitted hop hnot) fun j hj => absurd hj j.not_lt_zero

/-! ### Missing registers -/

/-- Where every register index fits a slot, a slot that reads as a missing register is that of a missing register. -/
theorem missing_of_badRegister_readBack {o : Operand} {name : RegName} (hfit : o.wf xlen (2 ^ xlen) = true)
    (h : badRegister numRegs (o.readBack xlen) = some name) : ∃ k, o = .reg k ∧ numRegs ≤ k ∧ name = .index k := by
  cases o with
  | reg k =>
    rw [Operand.readBack_reg (of_decide_eq_true hfit), badRegister_eq_some_iff] at h
    simpa [namesMissing] using h
  | imm v => cases h

/-- An operand that fits a slot and reads back as no missing register is well formed. -/
theorem Operand.wf_of_badRegister_readBack {o : Operand} (hfit : o.wf xlen (2 ^ xlen) = true)
    (h : badRegister numRegs (o.readBack xlen) = none) : o.wf xlen numRegs = true := by
  cases o with
  | reg k =>
    rw [Operand.readBack_reg (of_decide_eq_true hfit)] at h
    simpa [badRegister, Operand.wf] using h
  | imm v => exact hfit

/-- Settles O6: were no operand reported, every register would exist; the reported one is an operand of the instruction. -/
theorem missingRegisterIsInvalid : Obligations.MissingRegisterIsInvalid := by
  intro xlen numRegs idx i hfit hmissing
  have hfits := i.wf_iff_operands.mp hfit
  rw [decodeWord_operands (by rw [opcField_encode, opcodeOfCode_code]) (wordOperands_encode i)]
  cases hfirst : firstBad (badRegister numRegs) 0 (i.operands.map (Operand.readBack xlen)) with
  | none =>
    rw [← firstBadRegister_eq, firstBadRegister_eq_none, List.forall_mem_map] at hfirst
    have hwf := i.wf_iff_operands.mpr fun o ho => Operand.wf_of_badRegister_readBack (hfits o ho) (hfirst o ho)
    exact absurd hwf (Bool.eq_false_iff.mp hmissing)
  | some found =>
    obtain ⟨pos, name⟩ := found
    obtain ⟨j, o', hpos, ho', hbad⟩ := getElem?_of_firstBad hfirst
    obtain rfl : pos = j := by rw [hpos, Nat.zero_add]
    rw [List.getElem?_map, Option.map_eq_some_iff] at ho'
    obtain ⟨o, ho, rfl⟩ := ho'
    obtain ⟨k, rfl, hk, rfl⟩ := missing_of_badRegister_readBack (hfits o (List.mem_of_getElem? ho)) hbad
    exact ⟨pos, k, ho, hk, validateOperands_badRegister (fitsShape_operands i _ (fun _ => rfl) (fun _ => rfl)) hfirst⟩

end Sys2Proof

/-! The pipeline (40_pipeline.md): what an instruction's `exec` is in each stage, what resolving an operand answers, what
each stage function answers, and the whole effect of a step on the latches. -/

namespace Sys2Proof

variable {xlen : Nat}

/-! ### The program counter's two readings -/

theorem toNat_sx {w : Word xlen} (h : 0 ≤ sx w) : (sx w).toNat = ux w :=
  BitVec.toNat_toInt_of_sle (by simpa [BitVec.sle_iff_toInt_le] using h)

/-- An index below the length of a program R7 admits does not wrap when PC advances (92_eei_decisions.md D37). -/
theorem sx_add_one {w : Word xlen} {n : Nat} (h0 : 0 ≤ sx w) (hlt : sx w < n) (hn : progLenOk xlen n = true) :
    sx (w + 1) = sx w + 1 := by
  have hlen : n ≤ 2 ^ (xlen - 1) - 1 := by simpa [progLenOk] using hn
  have hpow : ((2 ^ (xlen - 1) : Nat) : Int) = 2 ^ (xlen - 1) := by norm_cast
  have hpos : 1 ≤ xlen := by
    by_contra hx
    obtain rfl : xlen = 0 := by omega
    simp at hlen
    omega
  have hrange : inSignedRange xlen (sx w + 1) = true := (inSignedRange_iff _).mpr (by omega)
  have hnext : word xlen (sx w + 1) = w + 1 := by
    rw [word, BitVec.ofInt_add, BitVec.ofInt_toInt]
    rfl
  rw [← hnext, sx_word hpos hrange]

end Sys2Proof

namespace Sys2Proof.Machine

open Sys2Proof

variable {xlen : Nat}

/-! ### The meaning of an instruction in each stage -/

section Exec

variable {i : Instr} {s : CoreState xlen} {f : IfEntry} {e m : ExEntry xlen}

theorem exec_fetch (hst : s.signals.stage = .fetch) (i : Instr) :
    exec i { xlen := xlen, core := s } = .next { xlen := xlen, core := fetchInstr i s } := by
  cases i <;> exact congrArg ofWidth (atStageOf_fetch hst)

theorem exec_decode_sources (hst : s.signals.stage = .decode) (hf : s.ifL = some f) (ht : targetOf i = none) :
    exec i { xlen := xlen, core := s } = ofWidth (decodeSources i (destOf i) (srcsOf i) f s) := by
  cases i
  case jmp | jz | jnz | je => cases ht
  all_goals exact congrArg ofWidth (atStageOf_decode hst hf)

theorem exec_decode_values {vs : List (Word xlen)} (hst : s.signals.stage = .decode) (hf : s.ifL = some f)
    (ht : targetOf i = none) (hvs : resolveAll (srcsOf i) s = .values vs) :
    exec i { xlen := xlen, core := s } =
      .next ⟨_, s.setID (some (decodedEntry f.idx i (destOf i) (srcsOf i) vs none))⟩ := by
  rw [exec_decode_sources hst hf ht, decodeSources, hvs]
  rfl

theorem exec_decode_stall (hst : s.signals.stage = .decode) (hf : s.ifL = some f) (ht : targetOf i = none)
    (hstall : resolveAll (srcsOf i) s = .stall) :
    exec i { xlen := xlen, core := s } = .next { xlen := xlen, core := stall s } := by
  rw [exec_decode_sources hst hf ht, decodeSources, hstall]
  rfl

/-- When a branch is taken (44_control.md R232 to R235). -/
def branchTaken : Instr → CoreState xlen → Bool
  | .jmp _ => alwaysTaken
  | .jz _ => takenIfZero
  | .jnz _ => takenIfNotZero
  | .je _ => takenIfEqual
  | _ => fun _ => false

@[simp] theorem branchTaken_jmp (w : Int) : branchTaken (.jmp w) s = true := rfl
@[simp] theorem branchTaken_jz (w : Int) : branchTaken (.jz w) s = s.z := rfl
@[simp] theorem branchTaken_jnz (w : Int) : branchTaken (.jnz w) s = !s.z := rfl
@[simp] theorem branchTaken_je (w : Int) : branchTaken (.je w) s = s.z := rfl

theorem exec_decode_branch {w : Int} (hst : s.signals.stage = .decode) (hf : s.ifL = some f) (ht : targetOf i = some w) :
    exec i { xlen := xlen, core := s } = ofWidth (resolveBranch i (branchTaken i) (word xlen w) f s) := by
  cases i
  case jmp | jz | jnz | je =>
    cases ht
    exact congrArg ofWidth (atStageOf_decode hst hf)
  all_goals cases ht

theorem exec_decode_taken {w : Int} (hst : s.signals.stage = .decode) (hf : s.ifL = some f) (ht : targetOf i = some w)
    (hc : branchTaken i s = true) :
    exec i { xlen := xlen, core := s } = .next { xlen := xlen, core := flushTo (word xlen w) s } := by
  rw [exec_decode_branch hst hf ht, resolveBranch, if_pos hc]
  rfl

theorem exec_decode_not_taken {w : Int} (hst : s.signals.stage = .decode) (hf : s.ifL = some f)
    (ht : targetOf i = some w) (hc : branchTaken i s = false) :
    exec i { xlen := xlen, core := s } =
      .next { xlen := xlen, core := s.setID (some (decodedEntry f.idx i none [] [] (some (word xlen w)))) } := by
  rw [exec_decode_branch hst hf ht, resolveBranch, if_neg (by simp [hc])]
  rfl

theorem exec_execute_cmp {d : IdEntry xlen} (hst : s.signals.stage = .execute) (hd : s.idL = some d) (a b : Operand) :
    exec (.cmp a b) { xlen := xlen, core := s } = ofWidth (executeCompare subResult d s) :=
  congrArg ofWidth (atStageOf_execute hst hd)

theorem exec_memory_pass (hst : s.signals.stage = .memoryAccess) (he : s.exL = some e) (hload : i.opcode ≠ .load)
    (hstore : i.opcode ≠ .store) :
    exec i { xlen := xlen, core := s } = .next { xlen := xlen, core := s.setMEM (some e) } := by
  cases i
  case load => exact absurd rfl hload
  case store => exact absurd rfl hstore
  all_goals exact congrArg ofWidth (atStageOf_memory hst he)

theorem exec_writeBack_commit (hst : s.signals.stage = .writeBack) (hm : s.memL = some m) (hd : destOf i ≠ none) :
    exec i { xlen := xlen, core := s } = ofWidth (commit m s) := by
  cases i
  case add | sub | mul | and | shl | mov | load => exact congrArg ofWidth (atStageOf_writeBack hst hm)
  all_goals exact absurd rfl hd

theorem exec_writeBack_retire (hst : s.signals.stage = .writeBack) (hm : s.memL = some m) (hd : destOf i = none) :
    exec i { xlen := xlen, core := s } = .next { xlen := xlen, core := s.setWB (some m) } := by
  cases i
  case add | sub | mul | and | shl | mov | load => cases hd
  all_goals exact congrArg ofWidth (atStageOf_writeBack hst hm)

end Exec

/-- Settles O13: every instruction's meaning in Fetch is `fetchInstr`. -/
theorem everyInstructionEntersIF : Obligations.EveryInstructionEntersIF := fun _ i _ hst => exec_fetch hst i

/-- Settles O14: the entry is the one `decodeSources` makes of the operand table's destination and sources. -/
theorem decodeWritesResolvedEntry : Obligations.DecodeWritesResolvedEntry :=
  fun _ _ _ _ _ ht hst hf hvs => exec_decode_values hst hf ht hvs

/-- Settles O15: `decodeSources` answers the stall, which writes what `stall_eq` says. -/
theorem loadUseHazardStalls : Obligations.LoadUseHazardStalls :=
  fun _ _ _ _ ht hst hf hstall => exec_decode_stall hst hf ht hstall

/-- Settles O17: the two outcomes of a branch, for each of the four conditions. -/
theorem branchResolutionInDecode : Obligations.BranchResolutionInDecode := by
  intro xlen s f t hst hf taken passed
  refine ⟨exec_decode_taken hst hf rfl rfl, fun hz => ⟨?_, ?_, ?_⟩, fun hz => ⟨?_, ?_, ?_⟩⟩
  · exact exec_decode_taken hst hf rfl hz
  · exact exec_decode_taken hst hf rfl hz
  · exact exec_decode_not_taken hst hf rfl (by simp [hz])
  · exact exec_decode_taken hst hf rfl (by simp [hz])
  · exact exec_decode_not_taken hst hf rfl hz
  · exact exec_decode_not_taken hst hf rfl hz

/-- Settles O24: LOAD and STORE alone have a memory part that does something. -/
theorem memoryAccessPassesOthersThrough : Obligations.MemoryAccessPassesOthersThrough :=
  fun _ _ _ _ hload hstore hst he => exec_memory_pass hst he hload hstore

/-! ### Resolving an operand (R136) -/

section Resolution

variable {k : Nat} {s : CoreState xlen} {e : ExEntry xlen} {w : Word xlen}

theorem writerOf_of_dest {l : Option (ExEntry xlen)} (hl : l = some e) (hd : e.dest = some k) : writerOf k l = some e := by
  rw [hl, writerOf, if_pos hd]

theorem writerOf_of_noWriter {l : Option (ExEntry xlen)} (h : noWriter k l) : writerOf k l = none := by
  cases l with
  | none => rfl
  | some e => exact if_neg (h e rfl)

theorem forwarded_of_result (h : e.result = some w) : forwarded e = .value w := by
  rw [forwarded, h]

theorem resolve_from_WB (hl : s.wbL = some e) (hd : e.dest = some k) (hw : e.result = some w) :
    resolve (.reg k) s = .value w := by
  rw [resolve, resolveReg, writerOf_of_dest hl hd]
  exact forwarded_of_result hw

theorem resolve_of_no_writer_in_WB (h : noWriter k s.wbL) : resolve (.reg k) s = resolveFromMEM k s := by
  rw [resolve, resolveReg, writerOf_of_noWriter h]

theorem resolve_from_MEM (hwb : noWriter k s.wbL) (hl : s.memL = some e) (hd : e.dest = some k)
    (hw : e.result = some w) : resolve (.reg k) s = .value w := by
  rw [resolve_of_no_writer_in_WB hwb, resolveFromMEM, writerOf_of_dest hl hd]
  exact forwarded_of_result hw

theorem resolve_of_no_writer_in_MEM (hwb : noWriter k s.wbL) (hmem : noWriter k s.memL) :
    resolve (.reg k) s = resolveFromEX k s := by
  rw [resolve_of_no_writer_in_WB hwb, resolveFromMEM, writerOf_of_noWriter hmem]

end Resolution

/-- Settles O16: each check answers when its latch holds a writer, and passes to the next when it does not. -/
theorem operandResolutionOrder : Obligations.OperandResolutionOrder := by
  intro xlen s k w
  refine ⟨fun v => rfl, fun e hl hd hw => resolve_from_WB hl hd hw, fun hwb =>
    ⟨fun e hl hd hw => resolve_from_MEM hwb hl hd hw, fun hmem => ?_⟩⟩
  rw [resolve_of_no_writer_in_MEM hwb hmem, resolveFromEX]
  refine ⟨fun e hl hd hload => ?_, fun e hl hd hload hw => ?_, fun hex hr => ?_⟩
  · rw [writerOf_of_dest hl hd]
    exact if_pos (by simp [isLoadEntry, hload])
  · rw [writerOf_of_dest hl hd, ← forwarded_of_result hw]
    exact if_neg (by simp [isLoadEntry, hload])
  · rw [writerOf_of_noWriter hex, readRegFile, hr]

/-! ### What each stage function answers -/

section StageFunctions

variable {s : CoreState xlen}

theorem writeBackStage_eq (s : CoreState xlen) : writeBackStage s = (s.memL.map (·.instr)).elim
    (.next { xlen := xlen, core := s.setWB none }) (fun i => exec i { xlen := xlen, core := s.atStage .writeBack }) := by
  unfold writeBackStage
  cases s.memL <;> rfl

theorem memoryStage_eq (s : CoreState xlen) : memoryStage s = (s.exL.map (·.instr)).elim
    (.next ⟨_, s.setMEM none⟩) (fun i => exec i { xlen := xlen, core := s.atStage .memoryAccess }) := by
  unfold memoryStage
  cases s.exL <;> rfl

theorem executeStage_eq (s : CoreState xlen) : executeStage s = (s.idL.map (·.instr)).elim
    (.next { xlen := xlen, core := s.setEX none }) (fun i => exec i { xlen := xlen, core := s.atStage .execute }) := by
  unfold executeStage
  cases s.idL <;> rfl

theorem decodeStage_eq (s : CoreState xlen) : decodeStage s = (s.ifL.map (·.instr)).elim
    (.next { xlen := xlen, core := (s.setFetchEn true).setID none })
    (fun i => exec i { xlen := xlen, core := (s.setFetchEn true).atStage .decode }) := by
  unfold decodeStage
  cases s.ifL <;> rfl

theorem writeBackStage_empty (h : s.memL = none) : writeBackStage s = .next { xlen := xlen, core := s.setWB none } := by
  rw [writeBackStage_eq, h]
  rfl

theorem memoryStage_empty (h : s.exL = none) : memoryStage s = .next { xlen := xlen, core := s.setMEM none } := by
  rw [memoryStage_eq, h]
  rfl

theorem executeStage_empty (h : s.idL = none) : executeStage s = .next { xlen := xlen, core := s.setEX none } := by
  rw [executeStage_eq, h]
  rfl

theorem decodeStage_empty (h : s.ifL = none) :
    decodeStage s = .next { xlen := xlen, core := (s.setFetchEn true).setID none } := by
  rw [decodeStage_eq, h]
  rfl

theorem pcInBounds_iff (s : CoreState xlen) : pcInBounds s = true ↔ 0 ≤ sx s.pc ∧ sx s.pc < s.prog.length := by
  simp [pcInBounds]

theorem recordAtPC_of_decode {item : ProgItem xlen} {i : Instr} (h0 : 0 ≤ sx s.pc) (hlt : sx s.pc < s.prog.length)
    (hitem : s.prog[(sx s.pc).toNat]? = some item)
    (hdec : decodeItem s.params.numRegs (sx s.pc).toNat item = .ok i) : recordAtPC s = some (.ok i) := by
  rw [toNat_sx h0] at hitem hdec
  rw [recordAtPC, if_pos ((pcInBounds_iff s).mpr ⟨h0, hlt⟩), hitem]
  exact congrArg some hdec

theorem recordAtPC_out_of_bounds (h : ¬ (0 ≤ sx s.pc ∧ sx s.pc < s.prog.length)) : recordAtPC s = none :=
  if_neg (mt (pcInBounds_iff s).mp h)

theorem fetchStage_record {i : Instr} (hen : s.signals.fetchEn = true) (hrec : recordAtPC s = some (.ok i)) :
    fetchStage s = .next { xlen := xlen, core := fetchInstr i (s.atStage .fetch) } := by
  rw [fetchStage, if_pos hen, hrec]
  exact exec_fetch rfl i

theorem fetchStage_bubble (hen : s.signals.fetchEn = true) (hrec : recordAtPC s = none) :
    fetchStage s = .next { xlen := xlen, core := s.setIF none } := by
  rw [fetchStage, if_pos hen, hrec]

theorem fetchStage_held (hen : s.signals.fetchEn = false) : fetchStage s = .next { xlen := xlen, core := s } :=
  if_neg (by simp [hen])

end StageFunctions

/-- Settles O12: a program within the bound of R7 is too short for PC to wrap when it advances. -/
theorem fetchLoadsInstructionAtPC : Obligations.FetchLoadsInstructionAtPC := by
  intro xlen s
  refine ⟨fun hen => ⟨fun item i h0 hlt hitem hdec => ?_, fun hout => ?_⟩, fetchStage_held⟩
  · refine ⟨_, fetchStage_record hen (recordAtPC_of_decode h0 hlt hitem hdec), ?_, sx_add_one h0 hlt, rfl⟩
    rw [toNat_sx h0]
    rfl
  · exact fetchStage_bubble hen (recordAtPC_out_of_bounds hout)

/-- Settles O28: Write-back commits the entry of an instruction with a destination and retires every other. -/
theorem writeBackCommitsDestination : Obligations.WriteBackCommitsDestination := by
  intro xlen i s m hst hm
  refine ⟨fun k v hd hk hv hlen => ?_, fun hd => exec_writeBack_retire hst hm hd, fun u hu => writeBackStage_empty hu⟩
  have hwrite : commit m s = writeReg k v (s.setWB (some m)) := by rw [commit, hk, hv]
  rw [exec_writeBack_commit hst hm hd, hwrite, writeReg_eq (s := s.setWB (some m)) hlen]
  rfl

/-- Settles O29: the bubble of each stage function. -/
theorem emptyLatchesPropagate : Obligations.EmptyLatchesPropagate :=
  fun _ _ => ⟨writeBackStage_empty, memoryStage_empty, executeStage_empty, decodeStage_empty⟩

end Sys2Proof.Machine

/-! A step of the pipeline (40_pipeline.md R130, R131): it runs the stage functions in order, and what it leaves in the
latches. -/

namespace Sys2Proof.Machine

open Sys2Proof

variable {xlen : Nat}

/-! ### A step whose cycle runs the stages -/

section Step

variable {s t : CoreState xlen}

theorem runsStages_iff (s : CoreState xlen) : runsStages s = true ↔ s.status = .running ∧
    isDone (hostAction s) = false ∧ isCapped (hostAction s) = false ∧ interruptPending (hostAction s) = false := by
  simp [runsStages, and_assoc]

theorem step_eq_endCycle (h : runsStages s = true) :
    step { xlen := xlen, core := s } = endCycle (runStages (hostAction s)) := by
  obtain ⟨hrun, hdone, hcap, hint⟩ := (runsStages_iff s).mp h
  simp [step, tick, loopBody, cycle, hrun, hdone, hcap, hint]

/-- When every stage function answers, the step is the last one's state with the cycle counted. -/
theorem step_of_stagesShape (h : runsStages s = true) (hs : stagesShape s t) :
    step { xlen := xlen, core := s } = .next { xlen := xlen, core := t } := by
  obtain ⟨s₁, s₂, s₃, s₄, s₅, h₁, h₂, h₃, h₄, h₅, rfl⟩ := hs
  rw [step_eq_endCycle h, runStages, nextStage_ran_next h₁, nextStage_ran_next h₂, nextStage_ran_next h₃,
    nextStage_ran_next h₄, nextStage_ran_next h₅]
  rfl

/-- A step that runs the stages and leaves the run under way raised nothing. -/
theorem stagesShape_of_step (h : runsStages s = true)
    (hstep : step { xlen := xlen, core := s } = .next { xlen := xlen, core := t }) (ht : t.status = .running) :
    stagesShape s t := by
  obtain ⟨hrun, -, -, hint⟩ := (runsStages_iff s).mp h
  rcases step_shapes_core hstep with ⟨hend, -⟩ | ⟨-, r, hr, rfl⟩ | ⟨-, -, ⟨hp, -⟩ | hc | hm | he⟩
  · exact absurd hrun hend
  · rcases hr with rfl | rfl <;> cases ht
  · rw [hint] at hp
    cases hp
  · exact hc
  · obtain ⟨-, -, r, hr⟩ := memoryRaiseShape_counts hm
    rw [ht] at hr
    cases hr
  · obtain ⟨-, -, -, -, -, r, hr⟩ := executeRaiseShape_counts he
    rw [ht] at hr
    cases hr

theorem runsOrBubbles_iff {o : Option Instr} {run : Instr → Result} {bubble t : CoreState xlen} :
    runsOrBubbles o run bubble t ↔
      o.elim (.next { xlen := xlen, core := bubble }) run = .next { xlen := xlen, core := t } := by
  cases o with
  | none => simp [runsOrBubbles, eq_comm]
  | some i => simp [runsOrBubbles]

end Step

/-- Settles O30: no stage function before it writes the latch a stage function reads its instruction from. -/
theorem stepRunsInstructionsInFlight : Obligations.StepRunsInstructionsInFlight := by
  intro xlen s s₁ s₂ s₃ s₄ s₅ hrun h₁ h₂ h₃ h₄ h₅
  have hw : writeBackStage (hostAction s) = .next { xlen := xlen, core := s₁ } := by
    rw [writeBackStage_eq, hostAction_memL]
    exact runsOrBubbles_iff.mp h₁
  obtain ⟨_, _, _, f₁, -⟩ := writeBackStage_frame hw
  have hex₁ : s₁.exL = s.exL := by rw [f₁, hostAction_exL]
  have hm : memoryStage s₁ = .next { xlen := xlen, core := s₂ } := by
    rw [memoryStage_eq, hex₁]
    exact runsOrBubbles_iff.mp h₂
  obtain ⟨_, _, _, _, _, f₂, -⟩ := memoryStage_frame hm
  have hid₂ : s₂.idL = s.idL := by rw [f₂, f₁, hostAction_idL]
  have he : executeStage s₂ = .next { xlen := xlen, core := s₃ } := by
    rw [executeStage_eq, hid₂]
    exact runsOrBubbles_iff.mp h₃
  obtain ⟨_, _, _, f₃, -⟩ := executeStage_frame he
  have hif₃ : s₃.ifL = s.ifL := by rw [f₃, f₂, f₁, hostAction_ifL]
  have hd : decodeStage s₃ = .next { xlen := xlen, core := s₄ } := by
    rw [decodeStage_eq, hif₃]
    exact runsOrBubbles_iff.mp h₄
  exact step_of_stagesShape hrun ⟨s₁, s₂, s₃, s₄, s₅, hw, hm, he, hd, h₅, rfl⟩

/-! ### A drained pipeline -/

section Drained

variable {s : CoreState xlen}

theorem isDrained_iff (s : CoreState xlen) : isDrained s = true ↔
    s.ifL = none ∧ s.idL = none ∧ s.exL = none ∧ s.memL = none ∧ s.wbL = none := by
  simp [isDrained, and_assoc]

theorem CoreState.setWB_none_self (h : s.wbL = none) : s.setWB none = s := by rw [← h]; rfl
theorem CoreState.setMEM_none_self (h : s.memL = none) : s.setMEM none = s := by rw [← h]; rfl
theorem CoreState.setEX_none_self (h : s.exL = none) : s.setEX none = s := by rw [← h]; rfl
theorem CoreState.setID_none_self (h : s.idL = none) : s.setID none = s := by rw [← h]; rfl

/-- On a drained pipeline the four stage functions before Fetch do nothing but set `fetch_en`. -/
theorem stages_of_drained (h : isDrained s = true) :
    writeBackStage s = .next { xlen := xlen, core := s } ∧ memoryStage s = .next { xlen := xlen, core := s } ∧
    executeStage s = .next { xlen := xlen, core := s } ∧
    decodeStage s = .next { xlen := xlen, core := s.setFetchEn true } := by
  obtain ⟨hif, hid, hex, hmem, hwb⟩ := (isDrained_iff s).mp h
  rw [writeBackStage_empty hmem, memoryStage_empty hex, executeStage_empty hid, decodeStage_empty hif,
    CoreState.setWB_none_self hwb, CoreState.setMEM_none_self hmem, CoreState.setEX_none_self hex,
    CoreState.setID_none_self (s := s.setFetchEn true) hid]
  exact ⟨rfl, rfl, rfl, rfl⟩

end Drained

/-- Settles O31: a drained pipeline leaves the cycle to Fetch. -/
theorem stepExecutesDecodedInstruction : Obligations.StepExecutesDecodedInstruction := by
  intro xlen s item i hdrained hrun h0 hlt hitem hdec _
  have hdrained' : isDrained (hostAction s) = true := by simpa [isDrained] using hdrained
  obtain ⟨h₁, h₂, h₃, h₄⟩ := stages_of_drained hdrained'
  have hrec : recordAtPC ((hostAction s).setFetchEn true) = some (.ok i) := by
    apply recordAtPC_of_decode (item := item) <;> simpa
  have h₅ := fetchStage_record (s := (hostAction s).setFetchEn true) rfl hrec
  have hstep := step_of_stagesShape hrun ⟨_, _, _, _, _, h₁, h₂, h₃, h₄, h₅, rfl⟩
  refine ⟨fetchInstr i ((hostAction s).atStage .fetch), exec_fetch rfl i, ?_⟩
  rw [hstep]
  generalize hostAction s = u
  rfl

/-! ### What a step leaves in the latches -/

/-- The instruction in IF, if there is one, moved on to ID, and no stall was counted. -/
def decodeMoves (s t : CoreState xlen) : Prop :=
  t.idL.map (fun d => (d.idx, d.instr)) = s.ifL.map (fun f => (f.idx, f.instr)) ∧ t.metrics.stalls = s.metrics.stalls

/-- The instruction in IF stayed there, and one stall was counted (40_pipeline.md R139). -/
def decodeStalls (s t : CoreState xlen) : Prop :=
  t.idL = none ∧ t.ifL = s.ifL ∧ t.pc = s.pc ∧ t.metrics.stalls = s.metrics.stalls + 1

/-- The instruction in IF was a taken branch, which left the pipe (40_pipeline.md R141), and no stall was counted. -/
def decodeBranches (s t : CoreState xlen) : Prop :=
  (∃ f w, s.ifL = some f ∧ targetOf f.instr = some w ∧ t.idL = none ∧ t.ifL = none ∧ t.pc = word xlen w) ∧
    t.metrics.stalls = s.metrics.stalls

/-- What a cycle whose stages ran leaves in the latches. A stall is on account of the LOAD that came from ID. -/
structure LatchesAdvance (s t : CoreState xlen) : Prop where
  wbL : t.wbL = s.memL
  memL : t.memL.map (fun e => (e.idx, e.instr)) = s.exL.map (fun e => (e.idx, e.instr))
  exL : t.exL.map (fun e => (e.idx, e.instr)) = s.idL.map (fun d => (d.idx, d.instr))
  idL : decodeMoves s t ∨ (decodeStalls s t ∧ s.idL ≠ none) ∨ decodeBranches s t

section Latches

variable {s t s₁ s₂ s₃ s₄ s₅ : CoreState xlen}

/-- A Fetch that is held does nothing. -/
theorem fetchStage_next_of_held (hen : s.signals.fetchEn = false)
    (h : fetchStage s = .next { xlen := xlen, core := t }) : t = s := by
  rw [fetchStage_held hen] at h
  cases h
  rfl

theorem fetchStage_keeps (h : fetchStage s = .next { xlen := xlen, core := t }) :
    t.idL = s.idL ∧ t.exL = s.exL ∧ t.memL = s.memL ∧ t.wbL = s.wbL ∧ t.metrics = s.metrics := by
  obtain ⟨_, _, _, rfl, -⟩ := fetchStage_frame h
  exact ⟨rfl, rfl, rfl, rfl, rfl⟩

theorem decodeStage_keeps (h : decodeStage s = .next { xlen := xlen, core := t }) :
    t.exL = s.exL ∧ t.memL = s.memL ∧ t.wbL = s.wbL := by
  obtain ⟨_, _, _, _, _, rfl, -⟩ := decodeStage_frame h
  exact ⟨rfl, rfl, rfl⟩

/-- What Decode and Fetch together do with the instruction in IF: Fetch is held whenever Decode wrote no entry for it. -/
theorem decode_fetch_latches (h₄ : decodeStage s₃ = .next { xlen := xlen, core := s₄ })
    (h₅ : fetchStage s₄ = .next { xlen := xlen, core := s₅ }) :
    decodeMoves s₃ s₅ ∨ (decodeStalls s₃ s₅ ∧ s₃.exL ≠ none) ∨ decodeBranches s₃ s₅ := by
  obtain ⟨hid, -, -, -, hmet⟩ := fetchStage_keeps h₅
  obtain ⟨p, i, l, mt, g, rfl, hdec⟩ := decodeStage_frame h₄
  rcases hdec with ⟨-, -, rfl, -, hmoved⟩ | ⟨rfl, rfl, rfl, rfl, hen, e, he, -⟩ |
    ⟨f, hf, ⟨w, hw, rfl⟩, rfl, rfl, rfl, hen⟩
  · exact .inl ⟨hid ▸ hmoved, congrArg Metrics.stalls hmet⟩
  · obtain rfl := fetchStage_next_of_held hen h₅
    exact .inr (.inl ⟨⟨rfl, rfl, rfl, rfl⟩, by simp [he]⟩)
  · obtain rfl := fetchStage_next_of_held hen h₅
    exact .inr (.inr ⟨⟨f, w, hf, hw, rfl, rfl, rfl⟩, rfl⟩)

/-- What each stage function reads is what the step found, though Write-back, Memory-access and Execute ran before it:
each writes the latch behind it, which only Decode's forwarding reads. -/
structure ReadsAtStart (s s₁ s₂ s₃ : CoreState xlen) : Prop where
  exL : s₁.exL = s.exL
  idL : s₂.idL = s.idL
  ifL : s₃.ifL = s.ifL
  pc : s₃.pc = s.pc
  stalls : s₃.metrics.stalls = s.metrics.stalls
  wbL : s₃.wbL = s.memL
  memL : s₃.memL = s₂.memL

theorem readsAtStart (h₁ : writeBackStage (hostAction s) = .next { xlen := xlen, core := s₁ })
    (h₂ : memoryStage s₁ = .next { xlen := xlen, core := s₂ })
    (h₃ : executeStage s₂ = .next { xlen := xlen, core := s₃ }) : ReadsAtStart s s₁ s₂ s₃ := by
  rw [hostAction_frame] at h₁
  obtain ⟨_, _, _, rfl, hwb, -⟩ := writeBackStage_frame h₁
  obtain ⟨_, _, _, _, _, rfl, -, hstalls, -⟩ := memoryStage_frame h₂
  obtain ⟨_, _, _, rfl, -⟩ := executeStage_frame h₃
  exact ⟨rfl, rfl, rfl, rfl, hstalls, hwb, rfl⟩

theorem memoryStage_moves (h : memoryStage s = .next { xlen := xlen, core := t }) :
    t.memL.map (fun e => (e.idx, e.instr)) = s.exL.map (fun e => (e.idx, e.instr)) := by
  obtain ⟨_, _, _, _, _, rfl, -, -, -, -, -, hmem, -⟩ := memoryStage_frame h
  exact hmem

theorem executeStage_moves (h : executeStage s = .next { xlen := xlen, core := t }) :
    t.exL.map (fun e => (e.idx, e.instr)) = s.idL.map (fun d => (d.idx, d.instr)) := by
  obtain ⟨_, _, _, rfl, -, hex⟩ := executeStage_frame h
  exact hex

theorem stagesShape_latches (h : stagesShape s t) : LatchesAdvance s t := by
  obtain ⟨s₁, s₂, s₃, s₄, s₅, h₁, h₂, h₃, h₄, h₅, rfl⟩ := h
  have start := readsAtStart h₁ h₂ h₃
  obtain ⟨hex₄, hmem₄, hwb₄⟩ := decodeStage_keeps h₄
  obtain ⟨-, hex₅, hmem₅, hwb₅, -⟩ := fetchStage_keeps h₅
  have hmem := memoryStage_moves h₂
  have hex := executeStage_moves h₃
  have hdec := decode_fetch_latches h₄ h₅
  rw [← start.memL, ← hmem₄, ← hmem₅, start.exL] at hmem
  rw [start.idL] at hex
  simp only [decodeMoves, decodeStalls, decodeBranches, start.ifL, start.pc, start.stalls] at hdec
  have hloaded : s₃.exL ≠ none → s.idL ≠ none := fun hne hnone => hne (by simpa [hnone] using hex)
  rw [← hex₄, ← hex₅] at hex
  exact ⟨hwb₅.trans (hwb₄.trans start.wbL), hmem, hex, hdec.imp_right (Or.imp_left (And.imp_right hloaded))⟩

end Latches

/-- Settles O42: what the stages left in the latches, of which the statement says the stall counter in one case. -/
theorem latchesAdvanceOneStage : Obligations.LatchesAdvanceOneStage := by
  intro xlen s t hrun hstep ht
  obtain ⟨hwb, hmem, hex, hid⟩ := stagesShape_latches (stagesShape_of_step hrun hstep ht)
  refine ⟨hwb, hmem, hex, ?_⟩
  rcases hid with ⟨hmoved, -⟩ | ⟨⟨hidl, hifl, hpc, hstalls⟩, -⟩ | ⟨hbranch, -⟩
  · exact .inl hmoved
  · exact .inr (.inl ⟨hidl, hifl, hpc, hstalls⟩)
  · exact .inr (.inr hbranch)

/-! ### One stall for each load-use pair -/

section Stalls

variable {s t : CoreState xlen}

/-- A step that counts a stall had an instruction in ID and leaves ID empty; no other step changes the stall counter. -/
theorem step_stalls (h : step { xlen := xlen, core := s } = .next { xlen := xlen, core := t }) :
    t.metrics.stalls = s.metrics.stalls ∨ (decodeStalls s t ∧ s.idL ≠ none) := by
  rcases step_shapes_core h with ⟨-, rfl⟩ | ⟨-, r, -, rfl⟩ | ⟨-, -, ⟨-, -, rfl⟩ | hc | hm | he⟩
  · exact .inl rfl
  · exact .inl (congrArg Metrics.stalls (hostAction_metrics s))
  · exact .inl rfl
  · rcases (stagesShape_latches hc).idL with ⟨-, hsame⟩ | hstall | ⟨-, hsame⟩
    · exact .inl hsame
    · exact .inr hstall
    · exact .inl hsame
  · obtain ⟨-, hmet, -⟩ := memoryRaiseShape_counts hm
    exact .inl (congrArg Metrics.stalls hmet)
  · obtain ⟨-, -, -, hsame, -⟩ := executeRaiseShape_counts he
    exact .inl hsame

/-- Only an interrupt cycle counts an interrupt. -/
theorem step_interrupts (h : step { xlen := xlen, core := s } = .next { xlen := xlen, core := t }) :
    t.metrics.interrupts = s.metrics.interrupts ∨ interruptShape s t := by
  rcases step_shapes_core h with ⟨-, rfl⟩ | ⟨-, r, -, rfl⟩ | ⟨-, -, hi | hc | hm | he⟩
  · exact .inl rfl
  · exact .inl (congrArg Metrics.interrupts (hostAction_metrics s))
  · exact .inr hi
  · obtain ⟨-, -, hsame, -⟩ := stagesShape_counts hc
    exact .inl hsame
  · obtain ⟨-, hmet, -⟩ := memoryRaiseShape_counts hm
    exact .inl (congrArg Metrics.interrupts hmet)
  · obtain ⟨-, -, hsame, -⟩ := executeRaiseShape_counts he
    exact .inl hsame

/-- A step counts at most one interrupt; one that does keeps ID and the stall counter. -/
theorem step_counts_interrupt (h : step { xlen := xlen, core := s } = .next { xlen := xlen, core := t }) :
    t.metrics.interrupts ≤ s.metrics.interrupts + 1 ∧
    (t.metrics.interrupts = s.metrics.interrupts + 1 → t.idL = s.idL ∧ t.metrics.stalls = s.metrics.stalls) := by
  rcases step_interrupts h with hsame | ⟨-, -, rfl⟩
  · exact ⟨by omega, fun hone => by omega⟩
  · exact ⟨le_rfl, fun _ => ⟨rfl, rfl⟩⟩

/-- `n` steps count at most `n` interrupts; if they count that many, they keep ID and the stall counter. -/
theorem runSteps_count_interrupts {n : Nat}
    (h : runSteps n { xlen := xlen, core := s } = .next { xlen := xlen, core := t }) :
    t.metrics.interrupts ≤ s.metrics.interrupts + n ∧
    (t.metrics.interrupts = s.metrics.interrupts + n → t.idL = s.idL ∧ t.metrics.stalls = s.metrics.stalls) := by
  induction n generalizing s with
  | zero =>
    cases h
    exact ⟨le_rfl, fun _ => ⟨rfl, rfl⟩⟩
  | succ n ih =>
    rw [runSteps] at h
    split at h
    · rename_i u hu
      obtain ⟨u, rfl⟩ := step_width hu
      obtain ⟨hle, hkeep⟩ := step_counts_interrupt hu
      obtain ⟨hles, hkeeps⟩ := ih h
      refine ⟨by omega, fun hall => ?_⟩
      obtain ⟨hid, hst⟩ := hkeep (by omega)
      obtain ⟨hids, hsts⟩ := hkeeps (by omega)
      exact ⟨hids.trans hid, hsts.trans hst⟩
    · cases h
    · cases h

end Stalls

/-- Settles O43: the stall leaves ID empty, interrupt cycles keep it so, and with ID empty no step stalls. -/
theorem oneStallPerLoadUse : Obligations.OneStallPerLoadUse := by
  intro xlen n s t u v hst hone hruns hints huv
  have hempty : t.idL = none := by
    rcases step_stalls hst with hsame | ⟨⟨hid, -⟩, -⟩
    · omega
    · exact hid
  obtain ⟨hid, hstalls⟩ := (runSteps_count_interrupts hruns).2 hints
  rcases step_stalls huv with hsame | ⟨-, hne⟩
  · exact hsame.trans hstalls
  · exact absurd (hid.trans hempty) hne

/-! ### What Decode sees of the older instructions in its cycle -/

section SameCycle

variable {s s₁ : CoreState xlen}

/-- Memory-access hands on the entry of an instruction that is no LOAD. -/
theorem memoryStage_memL {e : ExEntry xlen} (h : memoryStage s = .next { xlen := xlen, core := s₁ }) (he : s.exL = some e)
    (hload : e.instr.opcode ≠ .load) : s₁.memL = some e := by
  rcases memoryStage_next h with ⟨hnone, -⟩ | ⟨e', w, he', hl, -⟩ | ⟨e', w, v, he', -, -, -, -, rfl⟩ |
    ⟨e', he', -, -, rfl⟩
  · rw [he] at hnone
    cases hnone
  · rw [he] at he'
    cases he'
    exact absurd hl hload
  · exact he'.symm.trans he
  · exact he'.symm.trans he

/-- Execute of a CMP leaves its flag (43_compare.md R220). -/
theorem executeStage_compare_z {d : IdEntry xlen} {a b : Operand} {va vb : Word xlen}
    (h : executeStage s = .next { xlen := xlen, core := s₁ }) (hd : s.idL = some d) (hi : d.instr = .cmp a b)
    (hv : d.vals = [va, vb]) : s₁.z = decide (va = vb) := by
  rw [executeStage_eq, hd, Option.map_some, Option.elim_some, hi,
    exec_execute_cmp (s := s.atStage .execute) rfl hd, executeCompare, hv] at h
  cases h
  rfl

/-- Decode of an instruction that is no branch and whose sources are resolved. -/
theorem decodeStage_sources {f : IfEntry} {vs : List (Word xlen)} (hf : s.ifL = some f) (ht : targetOf f.instr = none)
    (hvs : resolveAll (srcsOf f.instr) s = .values vs) :
    decodeStage s = .next ⟨_, ((s.setFetchEn true).atStage .decode).setID
      (some (decodedEntry f.idx f.instr (destOf f.instr) (srcsOf f.instr) vs none))⟩ := by
  rw [decodeStage_eq, hf, Option.map_some, Option.elim_some]
  exact exec_decode_values rfl hf ht (by simpa [CoreState.atStage, CoreState.setFetchEn] using hvs)

theorem decodeStage_taken {f : IfEntry} {w : Int} (hf : s.ifL = some f) (ht : targetOf f.instr = some w)
    (hc : branchTaken f.instr ((s.setFetchEn true).atStage .decode) = true) :
    decodeStage s = .next { xlen := xlen, core := flushTo (word xlen w) ((s.setFetchEn true).atStage .decode) } := by
  rw [decodeStage_eq, hf, Option.map_some, Option.elim_some]
  exact exec_decode_taken rfl hf ht hc

theorem decodeStage_not_taken {f : IfEntry} {w : Int} (hf : s.ifL = some f) (ht : targetOf f.instr = some w)
    (hc : branchTaken f.instr ((s.setFetchEn true).atStage .decode) = false) :
    decodeStage s = .next ⟨_, ((s.setFetchEn true).atStage .decode).setID
      (some (decodedEntry f.idx f.instr none [] [] (some (word xlen w))))⟩ := by
  rw [decodeStage_eq, hf, Option.map_some, Option.elim_some]
  exact exec_decode_not_taken rfl hf ht hc

end SameCycle

/-- Settles O44: when Decode runs, the older writer's entry is in MEM, the latch it asks before EX, and WB holds what MEM
held. -/
theorem oldestWriterWins : Obligations.OldestWriterWins := by
  intro xlen s t f e d rd k w hrun hstep ht hmem hex hdest hres hload _ _ hf hmov
  obtain ⟨s₁, s₂, s₃, s₄, s₅, h₁, h₂, h₃, h₄, h₅, rfl⟩ := stagesShape_of_step hrun hstep ht
  have start := readsAtStart h₁ h₂ h₃
  have hmem₂ : s₂.memL = some e := memoryStage_memL h₂ (start.exL.trans hex) hload
  have hvalue : resolve (.reg k) s₃ = .value w :=
    resolve_from_MEM (by rwa [start.wbL]) (start.memL.trans hmem₂) hdest hres
  have hvals : resolveAll (srcsOf f.instr) s₃ = .values [w] := by
    rw [hmov, srcsOf, resolveAll, hvalue]
    rfl
  rw [decodeStage_sources (start.ifL.trans hf) (by rw [hmov]; rfl) hvals] at h₄
  cases h₄
  exact ⟨_, (fetchStage_keeps h₅).1, rfl⟩

/-- Settles O45: Execute runs before Decode in the cycle, so the branch reads the flag the CMP has just written. -/
theorem branchReadsFlagOfSameCycle : Obligations.BranchReadsFlagOfSameCycle := by
  intro xlen s t f d a b va vb w hrun hstep ht hid hcmp hvals hf
  obtain ⟨s₁, s₂, s₃, s₄, s₅, h₁, h₂, h₃, h₄, h₅, rfl⟩ := stagesShape_of_step hrun hstep ht
  have start := readsAtStart h₁ h₂ h₃
  have hif₃ : s₃.ifL = some f := start.ifL.trans hf
  have hz : s₃.z = decide (va = vb) := executeStage_compare_z h₃ (start.idL.trans hid) hcmp hvals
  refine ⟨fun hcase => ?_, fun hcase => ?_⟩
  · obtain ⟨htarget, hcond⟩ : targetOf f.instr = some w ∧
        branchTaken f.instr ((s₃.setFetchEn true).atStage .decode) = true := by
      rcases hcase with ⟨hi | hi, heq⟩ | ⟨hi, heq⟩ <;>
        simp [hi, targetOf, hz, heq]
    rw [decodeStage_taken hif₃ htarget hcond] at h₄
    cases h₄
    cases fetchStage_next_of_held rfl h₅
    exact ⟨rfl, rfl, rfl⟩
  · obtain ⟨htarget, hcond⟩ : targetOf f.instr = some w ∧
        branchTaken f.instr ((s₃.setFetchEn true).atStage .decode) = false := by
      rcases hcase with ⟨hi | hi, heq⟩ | ⟨hi, heq⟩ <;>
        simp [hi, targetOf, hz, heq]
    rw [decodeStage_not_taken hif₃ htarget hcond] at h₄
    cases h₄
    exact ⟨_, (fetchStage_keeps h₅).1, rfl, rfl⟩

end Sys2Proof.Machine

/-! The arithmetic family in Execute (41_arithmetic.md R182 to R186). -/

namespace Sys2Proof.Machine

open Sys2Proof

variable {xlen : Nat}

/-- What an arithmetic instruction computes of its two values; SHL, of a nonnegative amount (41_arithmetic.md R182 to
R186). -/
def arithmeticOf : Instr → Option (Word xlen → Word xlen → Word xlen)
  | .add _ _ _ => some (fun va vb => va + vb)
  | .sub _ _ _ => some (fun va vb => va - vb)
  | .mul _ _ _ => some (fun va vb => va * vb)
  | .and _ _ _ => some (fun va vb => va &&& vb)
  | .shl _ _ _ => some (fun va vb => va <<< (sx vb).toNat)
  | _ => none

section ArithmeticExecute

variable {s : CoreState xlen} {d : IdEntry xlen} {va vb w : Word xlen} {f : Word xlen → Word xlen → Word xlen}

theorem executeALU_values (hv : d.vals = [va, vb]) (hw : f va vb = w) :
    executeALU f d s = .next ((intoEX d (some w) none s).setZ (decide (w = 0))) := by
  rw [executeALU, hv, ← hw]
  rfl

theorem executeShift_values (hv : d.vals = [va, vb]) (hamount : 0 ≤ sx vb) (hw : f va vb = w) :
    executeShift f d s = .next ((intoEX d (some w) none s).setZ (decide (w = 0))) := by
  rw [executeShift, hv, ← hw]
  exact if_neg (not_lt.mpr hamount)

/-- The five instructions differ in the word they compute alone. -/
theorem exec_execute_arithmetic {i : Instr} (hst : s.signals.stage = .execute) (hd : s.idL = some d)
    (hv : d.vals = [va, vb]) (hf : arithmeticOf i = some f) (hamount : i.opcode = .shl → 0 ≤ sx vb) :
    exec i { xlen := xlen, core := s } = .next ⟨_, (intoEX d (some (f va vb)) none s).setZ (decide (f va vb = 0))⟩ := by
  have hpart (p : Parts xlen) {t : CoreState xlen} (hp : p.execute d s = .next t) :
      ofWidth (atStageOf i p s) = .next { xlen := xlen, core := t } :=
    congrArg ofWidth ((atStageOf_execute hst hd).trans hp)
  cases i
  case add =>
    cases hf
    exact hpart _ (executeALU_values hv (addResult_eq va vb))
  case sub =>
    cases hf
    exact hpart _ (executeALU_values hv (subResult_eq va vb))
  case mul =>
    cases hf
    exact hpart _ (executeALU_values hv (mulResult_eq va vb))
  case and =>
    cases hf
    exact hpart _ (executeALU_values hv (andResult_eq va vb))
  case shl =>
    cases hf
    exact hpart _ (executeShift_values hv (hamount rfl) (shlResult_eq (hamount rfl)))
  all_goals cases hf

end ArithmeticExecute

/-- Settles O18: the narrowed results are the bit-vector operations; a difference is zero when the words are equal. -/
theorem arithmeticExecutesResultAndZ : Obligations.ArithmeticExecutesResultAndZ := by
  intro xlen s rd a b d va vb hst hd hv
  have hadd := exec_execute_arithmetic (i := .add rd a b) hst hd hv rfl (nomatch ·)
  have hsub := exec_execute_arithmetic (i := .sub rd a b) hst hd hv rfl (nomatch ·)
  have hmul := exec_execute_arithmetic (i := .mul rd a b) hst hd hv rfl (nomatch ·)
  have hand := exec_execute_arithmetic (i := .and rd a b) hst hd hv rfl (nomatch ·)
  simp only [sub_eq_zero] at hsub
  exact ⟨hadd, hsub, hmul, hand⟩

/-- Settles O19: the amount passes the sign check, and by XLEN places or more every bit is shifted out. -/
theorem shiftExecutesResultAndZ : Obligations.ShiftExecutesResultAndZ := by
  intro xlen s rd a b d va vb hst hd hv hamount
  have hshl := exec_execute_arithmetic (i := .shl rd a b) hst hd hv rfl fun _ => hamount
  exact ⟨hshl, fun hall => shiftLeft_eq_zero (by omega)⟩

end Sys2Proof.Machine

/-! An instruction alone in the pipeline (40_pipeline.md R130): five cycles take it from the program store through the five
latches, with nothing behind it. -/

namespace Sys2Proof.Machine

open Sys2Proof

variable {xlen : Nat}

/-! ### Quiet cycles and the end of the program -/

section Quiet

variable {n : Nat} {s : CoreState xlen}

theorem quietFor_iff (n : Nat) (s : CoreState xlen) : quietFor n s = true ↔ s.status = .running ∧ s.dev.ready = false ∧
    s.metrics.cycles + n ≤ s.maxCycles ∧ ∀ c ∈ s.triggers, c.1 < s.metrics.cycles ∨ s.metrics.cycles + n ≤ c.1 := by
  simp [quietFor, and_assoc]

theorem triggerAt_eq_none {ts : List (Nat × Word xlen)} {t : Nat} (h : ∀ c ∈ ts, c.1 ≠ t) : triggerAt ts t = none := by
  induction ts with
  | nil => rfl
  | cons c ts ih =>
    obtain ⟨hc, hts⟩ := List.forall_mem_cons.mp h
    exact (if_neg hc).trans (ih hts)

theorem hostAction_of_quiet (h : quietFor (n + 1) s = true) : hostAction s = s := by
  obtain ⟨-, -, -, htriggers⟩ := (quietFor_iff _ s).mp h
  have hnone : triggerAt s.triggers s.metrics.cycles = none :=
    triggerAt_eq_none fun c hc => by have := htriggers c hc; omega
  rw [hostAction, hnone]

theorem runsStages_of_quiet (h : quietFor (n + 1) s = true) (hdone : isDone s = false) : runsStages s = true := by
  obtain ⟨hrun, hready, hcap, -⟩ := (quietFor_iff _ s).mp h
  rw [runsStages_iff, hostAction_of_quiet h]
  refine ⟨hrun, hdone, ?_, by simp [interruptPending, hready]⟩
  simp only [isCapped, decide_eq_false_iff_not]
  omega

theorem countCycle_setSignals_rest (t : CoreState xlen) : (countCycle t).setSignals Signals.rest = { t with
    metrics := { t.metrics with cycles := t.metrics.cycles + 1 }, signals := Signals.rest } := rfl

/-- The cycle of a quiet state, of which the stage functions answer `t`. -/
theorem step_of_quiet {s₁ s₂ s₃ s₄ t : CoreState xlen} (h : quietFor (n + 1) s = true) (hdone : isDone s = false)
    (h₁ : writeBackStage s = .next { xlen := xlen, core := s₁ })
    (h₂ : memoryStage s₁ = .next { xlen := xlen, core := s₂ }) (h₃ : executeStage s₂ = .next { xlen := xlen, core := s₃ })
    (h₄ : decodeStage s₃ = .next { xlen := xlen, core := s₄ }) (h₅ : fetchStage s₄ = .next { xlen := xlen, core := t }) :
    step { xlen := xlen, core := s } = .next ⟨_, { t with
      metrics := { t.metrics with cycles := t.metrics.cycles + 1 }, signals := Signals.rest }⟩ := by
  rw [← hostAction_of_quiet h] at h₁
  rw [← countCycle_setSignals_rest]
  exact step_of_stagesShape (runsStages_of_quiet h hdone) ⟨_, _, _, _, _, h₁, h₂, h₃, h₄, h₅, rfl⟩

/-- The index after a program's last is no index of it, whether it wraps or not. -/
theorem sx_past_last {w : Word xlen} {n : Nat} (hx : 2 ≤ xlen) (hlast : sx w + 1 = n) :
    ¬ (0 ≤ sx (w + 1) ∧ sx (w + 1) < n) := by
  have hlt : sx w < (2 ^ (xlen - 1) : Nat) := by exact_mod_cast BitVec.toInt_lt
  have hpow : 2 ^ xlen = 2 * 2 ^ (xlen - 1) := by rw [← pow_succ']; congr 1; omega
  have hpos : 0 < 2 ^ (xlen - 1) := Nat.two_pow_pos _
  have hnext : sx (w + 1) = (n : Int).bmod (2 ^ xlen) := by
    rw [← hlast, sx, sx, BitVec.toInt_add, ← BitVec.toInt_one (w := xlen) (by omega)]
    rfl
  rw [hnext, hpow, Int.bmod_def, Int.emod_eq_of_lt (by omega) (by omega)]
  split <;> omega

theorem pcInBounds_of_recordAtPC {r : Except FaultRecord Instr} (h : recordAtPC s = some r) : pcInBounds s = true := by
  by_contra hout
  rw [recordAtPC, if_neg hout] at h
  cases h

theorem recordAtPC_past_end (hx : 2 ≤ xlen) (hlast : sx s.pc + 1 = s.prog.length) :
    recordAtPC (s.setPc (s.pc + 1)) = none :=
  recordAtPC_out_of_bounds (sx_past_last hx hlast)

end Quiet

/-! ### A cycle with one instruction in flight -/

section Cycles

variable {n : Nat} {s t : CoreState xlen}

theorem writeBackStage_idle (hmem : s.memL = none) (hwb : s.wbL = none) :
    writeBackStage s = .next { xlen := xlen, core := s } := by
  rw [writeBackStage_empty hmem, CoreState.setWB_none_self hwb]

theorem memoryStage_idle (hex : s.exL = none) (hmem : s.memL = none) :
    memoryStage s = .next { xlen := xlen, core := s } := by
  rw [memoryStage_empty hex, CoreState.setMEM_none_self hmem]

theorem executeStage_idle (hid : s.idL = none) (hex : s.exL = none) :
    executeStage s = .next { xlen := xlen, core := s } := by
  rw [executeStage_empty hid, CoreState.setEX_none_self hex]

/-- Write-back of an instruction with a destination. -/
theorem writeBackStage_commits {m : ExEntry xlen} {k : Nat} {v : Word xlen} (hm : s.memL = some m)
    (hd : destOf m.instr = some k) (hk : m.dest = some k) (hv : m.result = some v) (hlen : k < s.regs.length) :
    writeBackStage s = .next ⟨_, { s.atStage .writeBack with wbL := some m, regs := s.regs.set k v }⟩ := by
  rw [writeBackStage_eq, hm]
  exact (writeBackCommitsDestination xlen m.instr (s.atStage .writeBack) m rfl hm).1 k v (by simp [hd]) hk hv hlen

/-- With IF empty and PC out of bounds, Decode and Fetch emit their bubbles and leave the cycle to the stages before. -/
theorem step_of_empty_front {s₁ s₂ : CoreState xlen} (h : quietFor (n + 1) s = true) (hdone : isDone s = false)
    (hif : s.ifL = none) (hpast : recordAtPC s = none) (h₁ : writeBackStage s = .next { xlen := xlen, core := s₁ })
    (h₂ : memoryStage s₁ = .next { xlen := xlen, core := s₂ }) (h₃ : executeStage s₂ = .next { xlen := xlen, core := t }) :
    step { xlen := xlen, core := s } = .next ⟨_, { t with
      idL := none, metrics := { t.metrics with cycles := t.metrics.cycles + 1 }, signals := Signals.rest }⟩ := by
  obtain ⟨_, _, _, f₁, -⟩ := writeBackStage_frame h₁
  obtain ⟨_, _, _, _, _, f₂, -⟩ := memoryStage_frame h₂
  obtain ⟨_, _, _, f₃, -⟩ := executeStage_frame h₃
  have hif₃ : t.ifL = none := by rw [f₃, f₂, f₁]; exact hif
  have hpast₄ : recordAtPC ((t.setFetchEn true).setID none) = none := by rw [f₃, f₂, f₁]; exact hpast
  have h₅ := fetchStage_bubble rfl hpast₄
  rw [step_of_quiet h hdone h₁ h₂ h₃ (decodeStage_empty hif₃) h₅, ← hif₃]
  rfl

end Cycles

/-! ### Operands with nothing in flight -/

section ArchitecturalValues

variable {s : CoreState xlen} {a b : Operand} {va vb v : Word xlen}

/-- With nothing in flight past Decode, an operand's value is the architectural one (40_pipeline.md R136). -/
theorem resolve_of_archValue {o : Operand} (hex : s.exL = none) (hmem : s.memL = none) (hwb : s.wbL = none)
    (h : archValue s o = some v) : resolve o s = .value v := by
  cases o with
  | imm w =>
    cases h
    rfl
  | reg k =>
    have hregs : s.regs[k]? = some v := h
    rw [resolve_of_no_writer_in_MEM (by simp [noWriter, hwb]) (by simp [noWriter, hmem]), resolveFromEX, hex, writerOf,
      readRegFile, hregs]

theorem resolveAll_pair (ha : resolve a s = .value va) (hb : resolve b s = .value vb) :
    resolveAll [a, b] s = .values [va, vb] := by
  simp only [resolveAll, ha, hb]

end ArchitecturalValues

/-! ### One instruction through the five latches -/

/-- `s` once the instruction at its PC has been in the pipeline for `n` cycles and nothing came behind it: PC is past it,
and these are the latches. What the instruction has written so far is written in `s` itself. -/
def inPipe (s : CoreState xlen) (n : Nat) (ifL : Option IfEntry) (idL : Option (IdEntry xlen))
    (exL memL wbL : Option (ExEntry xlen)) : CoreState xlen :=
  { s with
    pc := s.pc + 1, ifL := ifL, idL := idL, exL := exL, memL := memL, wbL := wbL,
    metrics := { s.metrics with cycles := s.metrics.cycles + n }, signals := Signals.rest }

/-- `s` with the instruction `i` fetched from its PC. -/
def fetchedAlone (s : CoreState xlen) (i : Instr) : CoreState xlen :=
  inPipe s 1 (some { idx := ux s.pc, instr := i }) none none none none

/-- The ID entry of the instruction `i` fetched from the PC of `s`, when it is no branch. -/
def decodedAlone (s : CoreState xlen) (i : Instr) (vs : List (Word xlen)) : IdEntry xlen :=
  decodedEntry (ux s.pc) i (destOf i) (srcsOf i) vs none

/-- Five quiet cycles lie ahead, and the index after PC is out of bounds. -/
structure HasPipeToItself (s : CoreState xlen) : Prop where
  quiet : quietFor 5 s = true
  past : recordAtPC (s.setPc (s.pc + 1)) = none

theorem lastInstrAtPC_iff (s : CoreState xlen) (i : Instr) :
    lastInstrAtPC s i = true ↔ sx s.pc + 1 = s.prog.length ∧ recordAtPC s = some (.ok i) := by
  rw [lastInstrAtPC, Bool.and_eq_true, decide_eq_true_eq]
  split <;> simp_all

theorem startsAlone_iff (s : CoreState xlen) (i : Instr) : startsAlone s i = true ↔ isDrained s = true ∧
    quietFor 5 s = true ∧ controllerAtRest s = true ∧ sx s.pc + 1 = s.prog.length ∧ recordAtPC s = some (.ok i) := by
  simp only [startsAlone, Bool.and_eq_true, lastInstrAtPC_iff, and_assoc]

section Alone

variable {s t : CoreState xlen} {i : Instr} {d : IdEntry xlen} {e : ExEntry xlen}
  {exL memL wbL : Option (ExEntry xlen)} {idL : Option (IdEntry xlen)} {ifL : Option IfEntry}

theorem hasPipeToItself_of_startsAlone (hx : 2 ≤ xlen) (h : startsAlone s i = true) : HasPipeToItself s := by
  obtain ⟨-, hquiet, -, hlast, -⟩ := (startsAlone_iff s i).mp h
  exact ⟨hquiet, recordAtPC_past_end hx hlast⟩

/-- After `n` cycles the rest of the five are still quiet. -/
theorem HasPipeToItself.quiet_inPipe {n m : Nat} (h : HasPipeToItself s) (hm : n + m ≤ 5) :
    quietFor m (inPipe s n ifL idL exL memL wbL) = true := by
  obtain ⟨hrun, hready, hcap, htriggers⟩ := (quietFor_iff 5 s).mp h.quiet
  refine (quietFor_iff m _).mpr ⟨hrun, hready, ?_, fun c hc => ?_⟩
  · show s.metrics.cycles + n + m ≤ s.maxCycles
    omega
  · show c.1 < s.metrics.cycles + n ∨ s.metrics.cycles + n + m ≤ c.1
    have := htriggers c hc
    omega

/-- The first cycle: Fetch alone has something to do. -/
theorem step_fetches (hs : startsAlone s i = true) : step { xlen := xlen, core := s } =
    .next { xlen := xlen, core := fetchedAlone s i } := by
  obtain ⟨hdrained, hquiet, -, -, hrec⟩ := (startsAlone_iff s i).mp hs
  obtain ⟨h₁, h₂, h₃, h₄⟩ := stages_of_drained hdrained
  have hdone : isDone s = false := by simp [isDone, pcInBounds_of_recordAtPC hrec]
  obtain ⟨-, hid, hex, hmem, hwb⟩ := (isDrained_iff s).mp hdrained
  have h₅ := fetchStage_record (s := s.setFetchEn true) rfl hrec
  rw [step_of_quiet hquiet hdone h₁ h₂ h₃ h₄ h₅]
  simp [fetchInstr, fetchedAlone, inPipe, hid, hex, hmem, hwb]

/-- The second cycle: Decode moves the instruction on to ID. -/
theorem step_decodes (h : HasPipeToItself s)
    (hdec : decodeStage (fetchedAlone s i) =
      .next ⟨_, (((fetchedAlone s i).setFetchEn true).atStage .decode).setID (some d)⟩) :
    step { xlen := xlen, core := fetchedAlone s i } = .next ⟨_, inPipe s 2 none (some d) none none none⟩ := by
  rw [step_of_quiet (s := fetchedAlone s i) (h.quiet_inPipe (m := 4) le_rfl) rfl (writeBackStage_idle rfl rfl)
    (memoryStage_idle rfl rfl) (executeStage_idle rfl rfl) hdec (fetchStage_bubble rfl h.past)]
  simp [fetchedAlone, inPipe]

/-- The third cycle: Execute writes EX, and Z for some instructions. -/
theorem step_executes (h : HasPipeToItself s)
    (hexe : executeStage (inPipe s 2 none (some d) none none none) = .next { xlen := xlen, core := t }) :
    step { xlen := xlen, core := inPipe s 2 none (some d) none none none } =
      .next ⟨_, inPipe (s.setZ t.z) 3 none none t.exL none none⟩ := by
  rw [step_of_empty_front (h.quiet_inPipe (m := 3) le_rfl) rfl rfl h.past (writeBackStage_idle rfl rfl)
    (memoryStage_idle rfl rfl) hexe]
  obtain ⟨_, _, _, rfl, -⟩ := executeStage_frame hexe
  simp [inPipe]

/-- The fourth cycle of an instruction that makes no access. -/
theorem step_passes_memory (h : HasPipeToItself s) (hload : e.instr.opcode ≠ .load) (hstore : e.instr.opcode ≠ .store) :
    step { xlen := xlen, core := inPipe s 3 none none (some e) none none } =
      .next ⟨_, inPipe s 4 none none none (some e) none⟩ := by
  have hmem : memoryStage (inPipe s 3 none none (some e) none none) =
      .next ⟨_, ((inPipe s 3 none none (some e) none none).atStage .memoryAccess).setMEM (some e)⟩ :=
    exec_memory_pass rfl rfl hload hstore
  rw [step_of_empty_front (h.quiet_inPipe (m := 2) le_rfl) rfl rfl h.past (writeBackStage_idle rfl rfl) hmem
    (executeStage_empty rfl)]
  simp [inPipe]

/-- The fifth cycle: Write-back writes the registers, for some instructions, and keeps the entry in WB. -/
theorem step_writes_back (h : HasPipeToItself s)
    (hwb : writeBackStage (inPipe s 4 none none none (some e) none) = .next { xlen := xlen, core := t }) :
    step { xlen := xlen, core := inPipe s 4 none none none (some e) none } =
      .next ⟨_, inPipe (s.setRegs t.regs) 5 none none none none (some e)⟩ := by
  obtain ⟨_, _, _, rfl, rfl, -⟩ := writeBackStage_frame hwb
  rw [step_of_empty_front (h.quiet_inPipe (m := 1) le_rfl) rfl rfl h.past hwb (memoryStage_empty rfl)
    (executeStage_empty rfl)]
  simp [inPipe]

/-- Decode of the instruction fetched reads the architectural registers. -/
theorem resolve_fetchedAlone {o : Operand} {v : Word xlen} (h : archValue s o = some v) :
    resolve o (fetchedAlone s i) = .value v := by
  have hsame : archValue (fetchedAlone s i) o = archValue s o := by cases o <;> rfl
  exact resolve_of_archValue rfl rfl rfl (hsame.trans h)

theorem runSteps_succ {n : Nat} {σ τ : State} (h : step σ = .next τ) : runSteps (n + 1) σ = runSteps n τ := by
  rw [runSteps, h]

/-- An instruction that makes no access, from the program store to WB: Decode, Execute and Write-back decide what it
leaves. -/
theorem runSteps_of_startsAlone {t₃ t₅ : CoreState xlen} (hx : 2 ≤ xlen) (hs : startsAlone s i = true)
    (hdec : decodeStage (fetchedAlone s i) =
      .next ⟨_, (((fetchedAlone s i).setFetchEn true).atStage .decode).setID (some d)⟩)
    (hexe : executeStage (inPipe s 2 none (some d) none none none) = .next { xlen := xlen, core := t₃ })
    (hex : t₃.exL = some e) (hload : e.instr.opcode ≠ .load) (hstore : e.instr.opcode ≠ .store)
    (hwb : writeBackStage (inPipe (s.setZ t₃.z) 4 none none none (some e) none) = .next { xlen := xlen, core := t₅ }) :
    runSteps 5 { xlen := xlen, core := s } =
      .next ⟨_, inPipe ((s.setZ t₃.z).setRegs t₅.regs) 5 none none none none (some e)⟩ := by
  have hpipe := hasPipeToItself_of_startsAlone hx hs
  have hpipe₃ : HasPipeToItself (s.setZ t₃.z) := ⟨hpipe.quiet, hpipe.past⟩
  have h₃ := step_executes hpipe hexe
  rw [hex] at h₃
  rw [runSteps_succ (step_fetches hs), runSteps_succ (step_decodes hpipe hdec), runSteps_succ h₃,
    runSteps_succ (step_passes_memory hpipe₃ hload hstore), runSteps_succ (step_writes_back hpipe₃ hwb)]
  rfl

/-- What five cycles leave of an instruction that writes registers and Z alone. -/
theorem passedAlone_inPipe (regs : List (Word xlen)) (z : Bool) (e : ExEntry xlen) :
    passedAlone s (inPipe ((s.setZ z).setRegs regs) 5 none none none none (some e)) regs z s.main s.cache
      s.metrics.cacheHits s.metrics.cacheMisses :=
  ⟨rfl, rfl, rfl, rfl, rfl, rfl, rfl, rfl, rfl, rfl, rfl, rfl, rfl, rfl, rfl, rfl, rfl, rfl, rfl⟩

end Alone

end Sys2Proof.Machine

/-! An arithmetic instruction alone in the pipeline (41_arithmetic.md R180). -/

namespace Sys2Proof.Machine

open Sys2Proof

variable {xlen : Nat}

section ArithmeticAlone

variable {s : CoreState xlen} {i : Instr} {rd : Nat} {a b : Operand} {va vb : Word xlen}
  {f : Word xlen → Word xlen → Word xlen}

/-- An arithmetic instruction is no branch and makes no access. -/
theorem arithmeticOf_some (h : arithmeticOf i = some f) :
    targetOf i = none ∧ i.opcode ≠ .load ∧ i.opcode ≠ .store := by
  cases i
  case add | sub | mul | and | shl => exact ⟨rfl, nofun, nofun⟩
  all_goals cases h

theorem arithmetic_passes_alone (hx : 2 ≤ xlen) (hs : startsAlone s i = true) (hf : arithmeticOf i = some f)
    (hdest : destOf i = some rd) (hsrcs : srcsOf i = [a, b]) (hamount : i.opcode = .shl → 0 ≤ sx vb)
    (hrd : rd < s.regs.length) (ha : archValue s a = some va) (hb : archValue s b = some vb) :
    ∃ t : CoreState xlen, runSteps 5 { xlen := xlen, core := s } = .next { xlen := xlen, core := t } ∧
      passedAlone s t (s.regs.set rd (f va vb)) (decide (f va vb = 0)) s.main s.cache s.metrics.cacheHits
        s.metrics.cacheMisses := by
  obtain ⟨htarget, hload, hstore⟩ := arithmeticOf_some hf
  have hvals : resolveAll (srcsOf i) (fetchedAlone s i) = .values [va, vb] := by
    rw [hsrcs]
    exact resolveAll_pair (resolve_fetchedAlone ha) (resolve_fetchedAlone hb)
  have hdec := decodeStage_sources (s := fetchedAlone s i) rfl htarget hvals
  have hexe : executeStage (inPipe s 2 none (some (decodedAlone s i [va, vb])) none none none) = _ :=
    exec_execute_arithmetic (d := decodedAlone s i [va, vb]) rfl rfl rfl hf hamount
  have hwb := writeBackStage_commits (s := inPipe (s.setZ (decide (f va vb = 0))) 4 none none none
    (some (executedEntry (decodedAlone s i [va, vb]) (some (f va vb)) none)) none) rfl hdest hdest rfl hrd
  exact ⟨_, runSteps_of_startsAlone hx hs hdec hexe rfl hload hstore hwb, passedAlone_inPipe _ _ _⟩

end ArithmeticAlone

/-- Settles O56: each of the five, with what `arithmeticOf` says it computes. -/
theorem arithmeticPassesThePipeline : Obligations.ArithmeticPassesThePipeline := by
  intro xlen hx
  refine ⟨?add, ?sub, ?mul, ?and, ?shl⟩
  case shl =>
    intro s rd a b va vb hs hrd ha hb hamount
    exact arithmetic_passes_alone hx hs rfl rfl rfl (fun _ => hamount) hrd ha hb
  all_goals
    intro s rd a b va vb hs hrd ha hb _
    exact arithmetic_passes_alone hx hs rfl rfl rfl nofun hrd ha hb

end Sys2Proof.Machine

/-! The data-movement family (42_data_movement.md): MOV, LOAD and STORE in Execute, and each alone in the pipeline. -/

namespace Sys2Proof.Machine

open Sys2Proof

variable {xlen : Nat}

/-! ### Execute -/

section DataMovementExecute

variable {s : CoreState xlen} {d : IdEntry xlen} {vs va : Word xlen}

theorem executePassValue_value (hv : d.vals = [va]) : executePassValue d s = .next (intoEX d (some va) none s) := by
  rw [executePassValue, hv]

theorem executeStore_values (hv : d.vals = [vs, va]) :
    executeStore d s = .next (intoEX d (some va) (some vs) s) := by
  rw [executeStore, hv]

/-- What an instruction's Execute part answers is its meaning in Execute. -/
theorem atStageOf_execute_next {i : Instr} {p : Parts xlen} {t : CoreState xlen} (hst : s.signals.stage = .execute)
    (hd : s.idL = some d) (hp : p.execute d s = .next t) :
    ofWidth (atStageOf i p s) = .next { xlen := xlen, core := t } :=
  congrArg ofWidth ((atStageOf_execute hst hd).trans hp)

theorem exec_execute_mov (hst : s.signals.stage = .execute) (hd : s.idL = some d) (hv : d.vals = [va]) (rd : Nat)
    (a : Operand) : exec (.mov rd a) { xlen := xlen, core := s } = .next ⟨_, intoEX d (some va) none s⟩ :=
  atStageOf_execute_next hst hd (executePassValue_value hv)

theorem exec_execute_load (hst : s.signals.stage = .execute) (hd : s.idL = some d) (hv : d.vals = [va]) (rd : Nat)
    (a : Operand) : exec (.load rd a) { xlen := xlen, core := s } = .next ⟨_, intoEX d (some va) none s⟩ :=
  atStageOf_execute_next hst hd (executePassValue_value hv)

theorem exec_execute_store (hst : s.signals.stage = .execute) (hd : s.idL = some d) (hv : d.vals = [vs, va]) (rs : Nat)
    (a : Operand) : exec (.store rs a) { xlen := xlen, core := s } = .next ⟨_, intoEX d (some va) (some vs) s⟩ :=
  atStageOf_execute_next hst hd (executeStore_values hv)

end DataMovementExecute

/-- Settles O21: the three parts write EX and nothing else. -/
theorem dataMovementExecutesWithoutZ : Obligations.DataMovementExecutesWithoutZ := fun _ _ r a _ hst hd =>
  ⟨fun _ hv => ⟨exec_execute_mov hst hd hv r a, exec_execute_load hst hd hv r a⟩,
    fun _ _ hv => exec_execute_store hst hd hv r a⟩

/-! ### The state an access leaves -/

section Access

variable {s : CoreState xlen} {idL : Option (IdEntry xlen)} {ifL : Option IfEntry} {exL memL wbL : Option (ExEntry xlen)}

/-- `s` with the items that a read or a write through the cache can change replaced. -/
def afterAccess (s : CoreState xlen) (main : Memory xlen) (cache : List (Line xlen)) (hits misses : Nat) :
    CoreState xlen :=
  { s with main := main, cache := cache, metrics := { s.metrics with cacheHits := hits, cacheMisses := misses } }

theorem memReadState_eq_afterAccess (s : CoreState xlen) (a : Nat) : memReadState s a =
    afterAccess s s.main (memReadState s a).cache (memReadState s a).metrics.cacheHits
      (memReadState s a).metrics.cacheMisses := by
  cases hhit : isHit s a with
  | true =>
    rw [memReadState_hit hhit]
    rfl
  | false =>
    rw [memReadState_miss hhit]
    rfl

theorem memWrite_eq_afterAccess (s : CoreState xlen) (a : Nat) (v : Word xlen) : memWrite s a v =
    afterAccess s (writeMain s.main a v) (memWrite s a v).cache s.metrics.cacheHits s.metrics.cacheMisses :=
  memWrite_frame s a v

/-- A read in Memory-access is the read of the state before the pipeline: latches and cycles do not touch the cache. -/
theorem memReadState_inPipe (s : CoreState xlen) (n a : Nat) (st : Stage) :
    memReadState ((inPipe s n ifL idL exL memL wbL).atStage st) a =
      (inPipe (memReadState s a) n ifL idL exL memL wbL).atStage st := by
  cases hhit : isHit s a with
  | true =>
    rw [memReadState_hit hhit]
    exact memReadState_hit hhit
  | false =>
    rw [memReadState_miss hhit]
    exact memReadState_miss hhit

theorem memWrite_inPipe (s : CoreState xlen) (n a : Nat) (v : Word xlen) (st : Stage) :
    memWrite ((inPipe s n ifL idL exL memL wbL).atStage st) a v =
      (inPipe (memWrite s a v) n ifL idL exL memL wbL).atStage st := by
  cases hhit : isHit s a with
  | true =>
    rw [memWrite_hit v hhit]
    exact memWrite_hit v hhit
  | false =>
    rw [memWrite_miss v hhit]
    exact memWrite_miss v hhit

/-- An access does not touch what decides the cycles ahead. -/
theorem HasPipeToItself.afterAccess (h : HasPipeToItself s) (main : Memory xlen) (cache : List (Line xlen))
    (hits misses : Nat) : HasPipeToItself (afterAccess s main cache hits misses) :=
  ⟨h.quiet, h.past⟩

/-- What five cycles leave of an instruction that makes an access and leaves the registers given. -/
theorem passedAlone_afterAccess (regs : List (Word xlen)) (main : Memory xlen) (cache : List (Line xlen))
    (hits misses : Nat) (m : ExEntry xlen) :
    passedAlone s (inPipe ((afterAccess s main cache hits misses).setRegs regs) 5 none none none none (some m)) regs s.z
      main cache hits misses :=
  ⟨rfl, rfl, rfl, rfl, rfl, rfl, rfl, rfl, rfl, rfl, rfl, rfl, rfl, rfl, rfl, rfl, rfl, rfl, rfl⟩

end Access

/-! ### One instruction of the family through the five latches -/

section DataMovementAlone

variable {s u : CoreState xlen} {i : Instr} {rd rs : Nat} {a : Operand} {vs va : Word xlen} {d : IdEntry xlen}
  {e m : ExEntry xlen}

/-- Write-back of an instruction without a destination keeps its entry in WB and writes no register. -/
theorem writeBackStage_retires (hm : s.memL = some m) (hd : destOf m.instr = none) :
    writeBackStage s = .next ⟨_, (s.atStage .writeBack).setWB (some m)⟩ := by
  rw [writeBackStage_eq, hm]
  exact exec_writeBack_retire rfl hm hd

theorem resolveAll_single {v : Word xlen} (ha : resolve a s = .value v) : resolveAll [a] s = .values [v] := by
  simp only [resolveAll, ha]

/-- Decode of MOV and LOAD, which have one source. -/
theorem decodeStage_single_source (htarget : targetOf i = none) (hsrcs : srcsOf i = [a])
    (ha : archValue s a = some va) : decodeStage (fetchedAlone s i) =
      .next ⟨_, (((fetchedAlone s i).setFetchEn true).atStage .decode).setID (some (decodedAlone s i [va]))⟩ := by
  have hvals : resolveAll (srcsOf i) (fetchedAlone s i) = .values [va] := by
    rw [hsrcs]
    exact resolveAll_single (resolve_fetchedAlone ha)
  exact decodeStage_sources (s := fetchedAlone s i) rfl htarget hvals

/-- `s` with the instruction of `e` fetched from its PC, in the fourth of its cycles, when Memory-access runs it. -/
abbrev inMemoryAccess (s : CoreState xlen) (e : ExEntry xlen) : CoreState xlen :=
  (inPipe s 3 none none (some e) none none).atStage .memoryAccess

/-- The fourth cycle of an access, which leaves `u` in the place of `s`. -/
theorem step_accesses (h : HasPipeToItself s)
    (hmem : memoryStage (inPipe s 3 none none (some e) none none) =
      .next ⟨_, (inMemoryAccess u e).setMEM (some m)⟩) :
    step { xlen := xlen, core := inPipe s 3 none none (some e) none none } =
      .next ⟨_, inPipe u 4 none none none (some m) none⟩ := by
  rw [step_of_empty_front (h.quiet_inPipe (m := 2) le_rfl) rfl rfl h.past (writeBackStage_idle rfl rfl) hmem
    (executeStage_empty rfl)]
  simp [inPipe]

/-- LOAD and STORE from the program store to WB: Execute writes EX alone, Memory-access leaves what the access leaves,
Write-back decides the registers. -/
theorem access_passes_alone {t : CoreState xlen} {regs : List (Word xlen)} {main : Memory xlen}
    {cache : List (Line xlen)} {hits misses : Nat} (hx : 2 ≤ xlen) (hs : startsAlone s i = true)
    (hu : u = afterAccess s main cache hits misses)
    (hdec : decodeStage (fetchedAlone s i) =
      .next ⟨_, (((fetchedAlone s i).setFetchEn true).atStage .decode).setID (some d)⟩)
    (hexe : executeStage (inPipe s 2 none (some d) none none none) =
      .next ⟨_, ((inPipe s 2 none (some d) none none none).atStage .execute).setEX (some e)⟩)
    (hmem : memoryStage (inPipe s 3 none none (some e) none none) = .next ⟨_, (inMemoryAccess u e).setMEM (some m)⟩)
    (hwb : writeBackStage (inPipe (afterAccess s main cache hits misses) 4 none none none (some m) none) =
      .next { xlen := xlen, core := t }) (hregs : t.regs = regs) :
    ∃ t' : CoreState xlen, runSteps 5 { xlen := xlen, core := s } = .next { xlen := xlen, core := t' } ∧
      passedAlone s t' regs s.z main cache hits misses := by
  subst hu hregs
  have hpipe := hasPipeToItself_of_startsAlone hx hs
  have h₃ : step { xlen := xlen, core := inPipe s 2 none (some d) none none none } =
      .next ⟨_, inPipe s 3 none none (some e) none none⟩ := step_executes hpipe hexe
  refine ⟨_, ?_, passedAlone_afterAccess t.regs main cache hits misses m⟩
  rw [runSteps_succ (step_fetches hs), runSteps_succ (step_decodes hpipe hdec), runSteps_succ h₃,
    runSteps_succ (step_accesses hpipe hmem), runSteps_succ (step_writes_back (hpipe.afterAccess ..) hwb)]
  rfl

/-- Memory-access of LOAD, whose word a transparent cache reads as Main's. -/
theorem memoryStage_loads (hi : e.instr = .load rd a) (hw : e.result = some va) (hp : s.params.wf = true)
    (ht : Transparent s) (haddr : addressOk s (sx va) = true) :
    memoryStage (inPipe s 3 none none (some e) none none) =
      .next ⟨_, (inMemoryAccess (memReadState s (sx va).toNat) e).setMEM
        (some { e with result := some (readMain s.main (sx va).toNat) })⟩ := by
  have hword : memReadWord (inMemoryAccess s e) (sx va).toNat = readMain s.main (sx va).toNat :=
    memReadWord_eq_readMain hp ht _
  have hload := accessLoad_in_range (s := inMemoryAccess s e) hw haddr
  rw [hword, memReadState_inPipe] at hload
  have hexec := exec_load_memory (s := inMemoryAccess s e) rfl rfl rd a
  rw [hload, ← hi] at hexec
  exact hexec

/-- Memory-access of STORE. -/
theorem memoryStage_stores (hi : e.instr = .store rs a) (hw : e.result = some va) (hv : e.sval = some vs)
    (haddr : addressOk s (sx va) = true) :
    memoryStage (inPipe s 3 none none (some e) none none) =
      .next ⟨_, (inMemoryAccess (memWrite s (sx va).toNat vs) e).setMEM (some e)⟩ := by
  have hstore := accessStore_in_range (s := inMemoryAccess s e) hw hv haddr
  rw [memWrite_inPipe] at hstore
  have hexec := exec_store_memory (s := inMemoryAccess s e) rfl rfl rs a
  rw [hstore, ← hi] at hexec
  exact hexec

theorem mov_passes_alone (hx : 2 ≤ xlen) (hs : startsAlone s (.mov rd a) = true) (hrd : rd < s.regs.length)
    (ha : archValue s a = some va) :
    ∃ t : CoreState xlen, runSteps 5 { xlen := xlen, core := s } = .next { xlen := xlen, core := t } ∧
      passedAlone s t (s.regs.set rd va) s.z s.main s.cache s.metrics.cacheHits s.metrics.cacheMisses := by
  have hdec := decodeStage_single_source (i := .mov rd a) rfl rfl ha
  have hexe : executeStage (inPipe s 2 none (some (decodedAlone s (.mov rd a) [va])) none none none) = _ :=
    exec_execute_mov (d := decodedAlone s (.mov rd a) [va]) rfl rfl rfl rd a
  have hwb := writeBackStage_commits (s := inPipe s 4 none none none
    (some (executedEntry (decodedAlone s (.mov rd a) [va]) (some va) none)) none) rfl rfl rfl rfl hrd
  exact ⟨_, runSteps_of_startsAlone hx hs hdec hexe rfl nofun nofun hwb, passedAlone_inPipe _ _ _⟩

theorem load_passes_alone (hx : 2 ≤ xlen) (hs : startsAlone s (.load rd a) = true) (hrd : rd < s.regs.length)
    (ha : archValue s a = some va) (hp : s.params.wf = true) (ht : Transparent s) (haddr : addressOk s (sx va) = true) :
    ∃ t : CoreState xlen, runSteps 5 { xlen := xlen, core := s } = .next { xlen := xlen, core := t } ∧
      passedAlone s t (s.regs.set rd (readMain s.main (sx va).toNat)) s.z s.main
        (memReadState s (sx va).toNat).cache (memReadState s (sx va).toNat).metrics.cacheHits
        (memReadState s (sx va).toNat).metrics.cacheMisses := by
  have hdec := decodeStage_single_source (i := .load rd a) rfl rfl ha
  have hexe : executeStage (inPipe s 2 none (some (decodedAlone s (.load rd a) [va])) none none none) = _ :=
    exec_execute_load (d := decodedAlone s (.load rd a) [va]) rfl rfl rfl rd a
  exact access_passes_alone hx hs (memReadState_eq_afterAccess s _) hdec hexe
    (memoryStage_loads rfl rfl hp ht haddr) (writeBackStage_commits rfl rfl rfl rfl hrd) rfl

theorem store_passes_alone (hx : 2 ≤ xlen) (hs : startsAlone s (.store rs a) = true) (hrs : s.regs[rs]? = some vs)
    (ha : archValue s a = some va) (haddr : addressOk s (sx va) = true) :
    ∃ t : CoreState xlen, runSteps 5 { xlen := xlen, core := s } = .next { xlen := xlen, core := t } ∧
      passedAlone s t s.regs s.z (writeMain s.main (sx va).toNat vs) (memWrite s (sx va).toNat vs).cache
        s.metrics.cacheHits s.metrics.cacheMisses := by
  have hvalue : archValue s (.reg rs) = some vs := hrs
  have hvals : resolveAll [.reg rs, a] (fetchedAlone s (.store rs a)) = .values [vs, va] :=
    resolveAll_pair (resolve_fetchedAlone hvalue) (resolve_fetchedAlone ha)
  have hdec := decodeStage_sources (s := fetchedAlone s (.store rs a)) rfl rfl hvals
  have hexe : executeStage (inPipe s 2 none (some (decodedAlone s (.store rs a) [vs, va])) none none none) = _ :=
    exec_execute_store (d := decodedAlone s (.store rs a) [vs, va]) rfl rfl rfl rs a
  exact access_passes_alone hx hs (memWrite_eq_afterAccess s _ vs) hdec hexe
    (memoryStage_stores rfl rfl rfl haddr) (writeBackStage_retires rfl rfl) rfl

end DataMovementAlone

/-- Settles O57: MOV makes no access; LOAD's word is Main's, for the cache is transparent. -/
theorem movAndLoadPassThePipeline : Obligations.MovAndLoadPassThePipeline := by
  intro xlen s rd a va hx hrd ha
  refine ⟨fun hs => mov_passes_alone hx hs hrd ha, fun hs hp _ ht hlo hhi => ?_⟩
  exact load_passes_alone hx hs hrd ha hp ht ((addressOk_iff s _).mpr ⟨hlo, hhi⟩)

/-- Settles O58: Main is written at the one address, so a canonical memory reads as before everywhere else. -/
theorem storePassesThePipeline : Obligations.StorePassesThePipeline := by
  intro xlen s rs a vs va hx hs hrs ha hlo hhi hwf
  obtain ⟨t, hrun, hpassed⟩ := store_passes_alone hx hs hrs ha ((addressOk_iff s _).mpr ⟨hlo, hhi⟩)
  have ⟨_, _, hmain, _⟩ := hpassed
  refine ⟨t, hrun, hpassed, fun b => ?_⟩
  rw [hmain, readMain_writeMain hwf]

end Sys2Proof.Machine

/-! CMP (43_compare.md), NOP (45_nop.md) and a branch not taken (44_control.md R233 to R235): in Execute, and
each alone in the pipeline. None of them has a destination or makes an access. -/

namespace Sys2Proof.Machine

open Sys2Proof

variable {xlen : Nat}

/-! ### Execute -/

section CompareExecute

variable {s : CoreState xlen} {d : IdEntry xlen} {va vb : Word xlen} {i : Instr}

theorem executeCompare_values (hv : d.vals = [va, vb]) :
    executeCompare subResult d s = .next ((intoEX d (some (va - vb)) none s).setZ (decide (va = vb))) := by
  rw [executeCompare, hv, ← subResult_eq]
  rfl

theorem exec_execute_cmp_values (hst : s.signals.stage = .execute) (hd : s.idL = some d) (hv : d.vals = [va, vb])
    (a b : Operand) : exec (.cmp a b) { xlen := xlen, core := s } =
      .next ⟨_, (intoEX d (some (va - vb)) none s).setZ (decide (va = vb))⟩ := by
  rw [exec_execute_cmp hst hd, executeCompare_values hv]
  rfl

/-- The instructions without sources are NOP and the branches; of these JMP alone has no meaning in Execute (log 15). -/
theorem exec_execute_no_sources (hst : s.signals.stage = .execute) (hd : s.idL = some d) (hsrcs : srcsOf i = [])
    (hjmp : isJmp i = false) : exec i { xlen := xlen, core := s } = .next ⟨_, intoEX d none none s⟩ := by
  cases i
  case nop | jz | jnz | je => exact atStageOf_execute_next hst hd rfl
  case jmp => cases hjmp
  all_goals cases hsrcs

end CompareExecute

/-- Settles O22: the narrowed difference is the bit-vector difference, and the flag compares the values. -/
theorem compareExecutesEquality : Obligations.CompareExecutesEquality :=
  fun _ _ a b _ _ _ hst hd hv => exec_execute_cmp_values hst hd hv a b

/-! ### Alone through the five latches -/

section CompareAlone

variable {s t : CoreState xlen} {i : Instr} {a b : Operand} {va vb : Word xlen} {d : IdEntry xlen} {e : ExEntry xlen}

/-- An instruction with no destination that makes no access leaves the flag Execute leaves, and nothing else. -/
theorem passes_alone_of_no_destination {z : Bool} (hx : 2 ≤ xlen) (hs : startsAlone s i = true)
    (hdec : decodeStage (fetchedAlone s i) =
      .next ⟨_, (((fetchedAlone s i).setFetchEn true).atStage .decode).setID (some d)⟩)
    (hexe : executeStage (inPipe s 2 none (some d) none none none) = .next { xlen := xlen, core := t })
    (hex : t.exL = some e) (hload : e.instr.opcode ≠ .load) (hstore : e.instr.opcode ≠ .store)
    (hdest : destOf e.instr = none) (hz : t.z = z) :
    ∃ t' : CoreState xlen, runSteps 5 { xlen := xlen, core := s } = .next { xlen := xlen, core := t' } ∧
      passedAlone s t' s.regs z s.main s.cache s.metrics.cacheHits s.metrics.cacheMisses := by
  subst hz
  exact ⟨_, runSteps_of_startsAlone hx hs hdec hexe hex hload hstore (writeBackStage_retires rfl hdest),
    passedAlone_inPipe _ _ _⟩

theorem cmp_passes_alone (hx : 2 ≤ xlen) (hs : startsAlone s (.cmp a b) = true) (ha : archValue s a = some va)
    (hb : archValue s b = some vb) :
    ∃ t : CoreState xlen, runSteps 5 { xlen := xlen, core := s } = .next { xlen := xlen, core := t } ∧
      passedAlone s t s.regs (decide (va = vb)) s.main s.cache s.metrics.cacheHits s.metrics.cacheMisses := by
  have hvals : resolveAll [a, b] (fetchedAlone s (.cmp a b)) = .values [va, vb] :=
    resolveAll_pair (resolve_fetchedAlone ha) (resolve_fetchedAlone hb)
  have hdec := decodeStage_sources (s := fetchedAlone s (.cmp a b)) rfl rfl hvals
  have hexe : executeStage (inPipe s 2 none (some (decodedAlone s (.cmp a b) [va, vb])) none none none) = _ :=
    exec_execute_cmp_values (d := decodedAlone s (.cmp a b) [va, vb]) rfl rfl rfl a b
  exact passes_alone_of_no_destination hx hs hdec hexe rfl nofun nofun rfl rfl

/-- An instruction without sources makes no access and has no destination. -/
theorem no_access_no_destination_of_no_sources (h : srcsOf i = []) :
    i.opcode ≠ .load ∧ i.opcode ≠ .store ∧ destOf i = none := by
  cases i
  case nop | jmp | jz | jnz | je => exact ⟨nofun, nofun, rfl⟩
  all_goals cases h

/-- NOP and a branch that Decode lets pass: Execute keeps Z. -/
theorem no_sources_passes_alone (hx : 2 ≤ xlen) (hs : startsAlone s i = true) (hsrcs : srcsOf i = [])
    (hjmp : isJmp i = false) (hinstr : d.instr = i)
    (hdec : decodeStage (fetchedAlone s i) =
      .next ⟨_, (((fetchedAlone s i).setFetchEn true).atStage .decode).setID (some d)⟩) :
    ∃ t : CoreState xlen, runSteps 5 { xlen := xlen, core := s } = .next { xlen := xlen, core := t } ∧
      passedAlone s t s.regs s.z s.main s.cache s.metrics.cacheHits s.metrics.cacheMisses := by
  subst hinstr
  obtain ⟨hload, hstore, hdest⟩ := no_access_no_destination_of_no_sources hsrcs
  have hexe : executeStage (inPipe s 2 none (some d) none none none) = _ :=
    exec_execute_no_sources (d := d) rfl rfl hsrcs hjmp
  exact passes_alone_of_no_destination hx hs hdec hexe rfl hload hstore hdest rfl

theorem nop_passes_alone (hx : 2 ≤ xlen) (hs : startsAlone s .nop = true) :
    ∃ t : CoreState xlen, runSteps 5 { xlen := xlen, core := s } = .next { xlen := xlen, core := t } ∧
      passedAlone s t s.regs s.z s.main s.cache s.metrics.cacheHits s.metrics.cacheMisses :=
  no_sources_passes_alone hx hs rfl rfl rfl (decodeStage_sources (s := fetchedAlone s .nop) (vs := []) rfl rfl rfl)

/-- A condition reads the flag alone, which Fetch and the start of Decode keep. -/
theorem branchTaken_fetchedAlone :
    branchTaken i (((fetchedAlone s i).setFetchEn true).atStage .decode) = branchTaken i s := by
  cases i <;> rfl

theorem isJmp_of_not_taken (h : branchTaken i s = false) : isJmp i = false := by
  cases i
  case jmp => cases h
  all_goals rfl

theorem branch_not_taken_passes_alone {w : Int} (hx : 2 ≤ xlen) (hs : startsAlone s i = true)
    (htarget : targetOf i = some w) (hpassed : branchTaken i s = false) :
    ∃ t : CoreState xlen, runSteps 5 { xlen := xlen, core := s } = .next { xlen := xlen, core := t } ∧
      passedAlone s t s.regs s.z s.main s.cache s.metrics.cacheHits s.metrics.cacheMisses :=
  no_sources_passes_alone hx hs (destOf_srcsOf_of_target htarget).2 (isJmp_of_not_taken hpassed) rfl
    (decodeStage_not_taken (s := fetchedAlone s i) rfl htarget (branchTaken_fetchedAlone.trans hpassed))

end CompareAlone

/-- Settles O59: CMP's Execute writes Z; NOP and the branches not taken have no sources, and their Execute writes EX
alone. -/
theorem compareNopAndPassedBranchPassThePipeline : Obligations.CompareNopAndPassedBranchPassThePipeline := by
  intro xlen hx
  refine ⟨fun s a b va vb hs ha hb => cmp_passes_alone hx hs ha hb, fun s i w hi hs => ?_⟩
  rcases hi with rfl | ⟨hz, rfl | rfl⟩ | ⟨hz, rfl⟩
  · exact nop_passes_alone hx hs
  · exact branch_not_taken_passes_alone hx hs rfl hz
  · exact branch_not_taken_passes_alone hx hs rfl hz
  · exact branch_not_taken_passes_alone hx hs rfl (by simp [hz])

end Sys2Proof.Machine

/-! The control family (44_control.md): a taken branch empties IF and ID and sets PC, the cycle after it fetches at its
target, and alone in the pipeline it leaves in two cycles. -/

namespace Sys2Proof.Machine

open Sys2Proof

variable {xlen : Nat}

/-! ### When a branch is taken -/

section Taken

variable {s t : CoreState xlen} {i : Instr} {w : Int}

/-- A condition reads the flag alone (44_control.md R232 to R235). -/
theorem branchTaken_congr (hz : s.z = t.z) : branchTaken i s = branchTaken i t := by
  cases i
  case jz | je => exact hz
  case jnz => exact congrArg (!·) hz
  all_goals rfl

theorem targetOf_branchTaken_of_flag
    (h : i = .jmp w ∨ (s.z = true ∧ (i = .jz w ∨ i = .je w)) ∨ (s.z = false ∧ i = .jnz w)) :
    targetOf i = some w ∧ branchTaken i s = true := by
  rcases h with rfl | ⟨hz, rfl | rfl⟩ | ⟨hz, rfl⟩
  · exact ⟨rfl, rfl⟩
  · exact ⟨rfl, hz⟩
  · exact ⟨rfl, hz⟩
  · exact ⟨rfl, by simp [hz]⟩

end Taken

/-! ### The cycle of a taken branch, and the cycle after it -/

section TakenThenFetched

variable {s t s₃ s₄ s₅ : CoreState xlen} {f : IfEntry} {w : Int}

theorem decode_fetch_z (h₄ : decodeStage s₃ = .next { xlen := xlen, core := s₄ })
    (h₅ : fetchStage s₄ = .next { xlen := xlen, core := s₅ }) : s₅.z = s₃.z := by
  obtain ⟨_, _, _, _, _, rfl, -⟩ := decodeStage_frame h₄
  obtain ⟨_, _, _, rfl, -⟩ := fetchStage_frame h₅
  rfl

/-- The cycle of a taken branch. Decode reads the flag Execute has just left, which is the one the cycle ends with; Fetch
is held. -/
theorem stagesShape_taken (h : stagesShape s t) (hf : s.ifL = some f) (htarget : targetOf f.instr = some w)
    (htaken : branchTaken f.instr t = true) : t.ifL = none ∧ t.pc = word xlen w := by
  obtain ⟨s₁, s₂, s₃, s₄, s₅, h₁, h₂, h₃, h₄, h₅, rfl⟩ := h
  have hif₃ : s₃.ifL = some f := (readsAtStart h₁ h₂ h₃).ifL.trans hf
  have hz : s₅.z = s₃.z := decode_fetch_z h₄ h₅
  have htaken₃ : branchTaken f.instr ((s₃.setFetchEn true).atStage .decode) = true :=
    (branchTaken_congr (s := (s₃.setFetchEn true).atStage .decode) (t := (countCycle s₅).setSignals Signals.rest)
      hz.symm).trans htaken
  rw [decodeStage_taken hif₃ htarget htaken₃] at h₄
  cases h₄
  cases fetchStage_next_of_held rfl h₅
  exact ⟨rfl, rfl⟩

/-- A cycle that finds IF empty: Decode emits its bubble, and Fetch reads at the PC the cycle started with. -/
theorem stagesShape_fetches (h : stagesShape s t) (hf : s.ifL = none) :
    (∀ i, recordAtPC s = some (.ok i) → t.ifL = some { idx := ux s.pc, instr := i }) ∧
    (recordAtPC s = none → t.ifL = none) := by
  obtain ⟨s₁, s₂, s₃, s₄, s₅, h₁, h₂, h₃, h₄, h₅, rfl⟩ := h
  have start := readsAtStart h₁ h₂ h₃
  rw [decodeStage_empty (start.ifL.trans hf)] at h₄
  cases h₄
  have hrec : recordAtPC ((s₃.setFetchEn true).setID none) = recordAtPC s := by
    rw [hostAction_frame] at h₁
    obtain ⟨_, _, _, rfl, -⟩ := writeBackStage_frame h₁
    obtain ⟨_, _, _, _, _, rfl, -⟩ := memoryStage_frame h₂
    obtain ⟨_, _, _, rfl, -⟩ := executeStage_frame h₃
    rfl
  refine ⟨fun i hi => ?_, fun hnone => ?_⟩
  · rw [fetchStage_record rfl (hrec.trans hi)] at h₅
    cases h₅
    rw [← start.pc]
    rfl
  · rw [fetchStage_bubble rfl (hrec.trans hnone)] at h₅
    cases h₅
    rfl

end TakenThenFetched

/-- Settles O46: the branch leaves IF empty and PC at its target, so Fetch of the next cycle reads there. -/
theorem targetIsFetchedNextCycle : Obligations.TargetIsFetchedNextCycle := by
  intro xlen s t u f w hrun hstep ht hf hbranch hrun' hstep' hu
  obtain ⟨htarget, htaken⟩ := targetOf_branchTaken_of_flag hbranch
  obtain ⟨hif, hpc⟩ := stagesShape_taken (stagesShape_of_step hrun hstep ht) hf htarget htaken
  obtain ⟨hfetch, hbubble⟩ := stagesShape_fetches (stagesShape_of_step hrun' hstep' hu) hif
  obtain ⟨_, hsame, hprog, hparams, -⟩ := programAndParametersAreFixed _ s _ hstep
  cases hsame
  rw [← hpc, ← hprog, ← hparams]
  refine ⟨fun item i h0 hitem hdec => ?_, fun hout => hbubble (recordAtPC_out_of_bounds hout)⟩
  have hlt : sx t.pc < t.prog.length := by
    obtain ⟨hlt, -⟩ := List.getElem?_eq_some_iff.mp hitem
    omega
  rw [toNat_sx h0]
  exact hfetch i (recordAtPC_of_decode h0 hlt hitem hdec)

/-! ### A taken branch alone in the pipeline -/

section TakenAlone

variable {s : CoreState xlen} {i : Instr} {w : Int} {n : Nat}

theorem quietFor_fetchedAlone (h : quietFor (n + 1) s = true) : quietFor n (fetchedAlone s i) = true := by
  obtain ⟨hrun, hready, hcap, htriggers⟩ := (quietFor_iff _ s).mp h
  refine (quietFor_iff n _).mpr ⟨hrun, hready, ?_, fun c hc => ?_⟩
  · show s.metrics.cycles + 1 + n ≤ s.maxCycles
    omega
  · show c.1 < s.metrics.cycles + 1 ∨ s.metrics.cycles + 1 + n ≤ c.1
    have := htriggers c hc
    omega

/-- The second cycle of a taken branch: Decode flushes, and holds Fetch whatever stands behind the branch. -/
theorem step_branches (hs : startsAlone s i = true) (htarget : targetOf i = some w) (htaken : branchTaken i s = true) :
    step { xlen := xlen, core := fetchedAlone s i } = .next ⟨_, { s with
      pc := word xlen w, metrics := { s.metrics with cycles := s.metrics.cycles + 2 }, signals := Signals.rest }⟩ := by
  obtain ⟨hdrained, hquiet, -⟩ := (startsAlone_iff s i).mp hs
  obtain ⟨hif, hid, hex, hmem, hwb⟩ := (isDrained_iff s).mp hdrained
  have hdec := decodeStage_taken (s := fetchedAlone s i) rfl htarget (branchTaken_fetchedAlone.trans htaken)
  rw [step_of_quiet (s := fetchedAlone s i) (quietFor_fetchedAlone hquiet) rfl (writeBackStage_idle rfl rfl)
    (memoryStage_idle rfl rfl) (executeStage_idle rfl rfl) hdec (fetchStage_held rfl)]
  simp [flushTo, fetchedAlone, inPipe, hif, hid, hex, hmem, hwb]

end TakenAlone

/-- Settles O60: Fetch takes the branch into IF, and Decode resolves it in the next cycle. -/
theorem takenBranchPassesThePipeline : Obligations.TakenBranchPassesThePipeline := by
  intro xlen s i w hbranch hs
  obtain ⟨htarget, htaken⟩ := targetOf_branchTaken_of_flag hbranch
  rw [runSteps_succ (step_fetches hs), runSteps_succ (step_branches hs htarget htaken), runSteps]

end Sys2Proof.Machine

/-! NOP (45_nop.md R250) in Execute, and with it the branches that Decode lets pass (44_control.md R233 to R235). -/

namespace Sys2Proof.Machine

open Sys2Proof

/-- Settles O23: none of the four has a source and none is JMP, so their Execute writes EX alone. -/
theorem nopAndPassedBranchExecuteNothing : Obligations.NopAndPassedBranchExecuteNothing := by
  intro xlen s t d hst hd
  have writesEXAlone (i : Instr) (hsrcs : srcsOf i = []) (hjmp : isJmp i = false) :
      exec i ⟨_, s⟩ = .next ⟨_, { s with exL := some (executedEntry d none none) }⟩ :=
    exec_execute_no_sources hst hd hsrcs hjmp
  exact ⟨writesEXAlone .nop rfl rfl, writesEXAlone (.jz t) rfl rfl, writesEXAlone (.jnz t) rfl rfl,
    writesEXAlone (.je t) rfl rfl⟩

end Sys2Proof.Machine

/-! The faults and the interrupt (60_exceptions.md R260 to R275): a refused program, the step that a raise ends, the step
that is an interrupt cycle. -/

namespace Sys2Proof

open Sys2Proof.Machine

variable {xlen numRegs idx : Nat}

/-! ### A static fault (R261) -/

section StaticFault

variable {r : FaultRecord}

theorem validateOperands_error_cycle {op : Opcode} {os : List RawOperand}
    (h : validateOperands xlen numRegs idx op os = .error r) : r.cycle = none := by
  unfold validateOperands at h
  repeat' split at h
  all_goals cases h
  all_goals rfl

/-- Static validation reports no cycle (R264). -/
theorem decodeItem_error_cycle {p : ProgItem xlen} (h : decodeItem numRegs idx p = .error r) : r.cycle = none := by
  cases p with
  | word w =>
    simp only [decodeItem, decodeWord] at h
    split at h
    · cases h
      rfl
    · split at h
      · cases h
        rfl
      · exact validateOperands_error_cycle h
  | record rec =>
    simp only [decodeItem, validateRecord] at h
    split at h
    · cases h
      rfl
    · exact validateOperands_error_cycle h

theorem firstStaticFault_cycle {prog : List (ProgItem xlen)} (h : firstStaticFault numRegs idx prog = some r) :
    r.cycle = none := by
  induction prog generalizing idx with
  | nil => cases h
  | cons p ps ih =>
    rw [firstStaticFault] at h
    split at h
    · rename_i hp
      cases h
      exact decodeItem_error_cycle hp
    · exact ih h

end StaticFault

/-- Settles O37: the status the program is loaded with is `refused`, and then a tick changes nothing. -/
theorem refusedProgramRunsNoCycle : Obligations.RefusedProgramRunsNoCycle := by
  intro inp dev r hfault
  have hstatus : (assertReset inp dev).status = .refused r := by
    simp only [assertReset, loadStatus, hfault]
  refine ⟨hstatus, firstStaticFault_cycle hfault, ?_, ?_, rfl⟩
  · rw [resetMachine, step, tick, hstatus]
  · rw [faultOut, hstatus]

end Sys2Proof

namespace Sys2Proof.Machine

open Sys2Proof

variable {xlen : Nat}

/-! ### The two raises (R262, R263) -/

section Raises

variable {s : CoreState xlen} {va vb w : Word xlen}

theorem executeShift_negative {d : IdEntry xlen} {f : Word xlen → Word xlen → Word xlen} (hv : d.vals = [va, vb])
    (hneg : sx vb < 0) : executeShift f d s = .fault (.negativeShift d.idx (sx vb)) := by
  rw [executeShift, hv]
  exact if_pos hneg

theorem exec_execute_shl_negative {d : IdEntry xlen} (hst : s.signals.stage = .execute) (hd : s.idL = some d)
    (hv : d.vals = [va, vb]) (hneg : sx vb < 0) (rd : Nat) (a b : Operand) :
    exec (.shl rd a b) { xlen := xlen, core := s } = .fault (.negativeShift d.idx (sx vb)) := by
  have hpart : exec (.shl rd a b) { xlen := xlen, core := s } = ofWidth (executeShift shlResult d s) :=
    congrArg ofWidth (atStageOf_execute hst hd)
  rw [hpart, executeShift_negative hv hneg]
  rfl

theorem executeStage_negative_shift {d : IdEntry xlen} {rd : Nat} {a b : Operand} (hd : s.idL = some d)
    (hi : d.instr = .shl rd a b) (hv : d.vals = [va, vb]) (hneg : sx vb < 0) :
    executeStage s = .fault (.negativeShift d.idx (sx vb)) := by
  rw [executeStage_eq, hd, Option.map_some, Option.elim_some, hi]
  exact exec_execute_shl_negative (s := s.atStage .execute) rfl hd hv hneg rd a b

theorem memoryStage_out_of_range {e : ExEntry xlen} (he : s.exL = some e)
    (hop : e.instr.opcode = .load ∨ (e.instr.opcode = .store ∧ e.sval.isSome = true)) (hw : e.result = some w)
    (hrange : sx w < 0 ∨ s.params.memSize ≤ sx w) : memoryStage s = .fault (.addressOutOfRange e.idx (sx w)) := by
  have hraise (r : Nat) (a : Operand) :=
    addressOutOfRangeRaises xlen (s.atStage .memoryAccess) r a e w rfl he hw hrange
  rw [memoryStage_eq, he, Option.map_some, Option.elim_some]
  cases hi : e.instr
  case load rd a => exact (hraise rd a).1
  case store rs a =>
    rw [hi] at hop
    obtain ⟨-, hsval⟩ := hop.resolve_left nofun
    obtain ⟨v, hv⟩ := Option.isSome_iff_exists.mp hsval
    exact (hraise rs a).2 v hv
  all_goals
    rw [hi] at hop
    exact absurd hop (by simp [Instr.opcode])

end Raises

/-- Settles O20: Execute of SHL checks the amount before it writes anything. -/
theorem negativeShiftRaises : Obligations.NegativeShiftRaises :=
  fun _ _ rd a b _ _ _ hst hd hv hneg => exec_execute_shl_negative hst hd hv hneg rd a b

/-! ### A step of each shape answers -/

section Shapes

variable {s t : CoreState xlen}

/-- A raise in Memory-access that the spec knows ends the run (R265). -/
theorem step_of_memoryRaiseShape (h : runsStages s = true) (hs : memoryRaiseShape s t) :
    step { xlen := xlen, core := s } = .next { xlen := xlen, core := t } := by
  obtain ⟨s₁, f, r, h₁, hf, hr, rfl⟩ := hs
  rw [step_eq_endCycle h, runStages, nextStage_ran_next h₁, nextStage_ran_fault hf, nextStage_raised,
    nextStage_raised, nextStage_raised, endCycle, atWidth, endWithFault, hr]
  rfl

/-- A raise in Execute that the spec knows ends the run (R265). -/
theorem step_of_executeRaiseShape (h : runsStages s = true) (hs : executeRaiseShape s t) :
    step { xlen := xlen, core := s } = .next { xlen := xlen, core := t } := by
  obtain ⟨s₁, s₂, f, r, h₁, h₂, hf, hr, rfl⟩ := hs
  rw [step_eq_endCycle h, runStages, nextStage_ran_next h₁, nextStage_ran_next h₂, nextStage_ran_fault hf,
    nextStage_raised, nextStage_raised, endCycle, atWidth, endWithFault, hr]
  rfl

/-- Where the sentinel register exists, the service routine answers, and with it the interrupt cycle (R274). -/
theorem interruptCycle_eq (hk : s.params.sentinelReg < s.regs.length) : interruptCycle s = .next { s with
    regs := s.regs.set s.params.sentinelReg s.params.sentinelValue,
    dev := { ready := false, value := s.dev.value },
    metrics := { s.metrics with interrupts := s.metrics.interrupts + 1 },
    istate := { mode := .normal, savedPC := none } } := by
  have hk' : (takeInterrupt s).params.sentinelReg < (takeInterrupt s).regs.length := hk
  have hanswers : ∃ t, interruptCycle s = .next t := by
    rw [interruptCycle, serviceRoutine, writeReg_eq hk']
    exact ⟨_, rfl⟩
  obtain ⟨t, ht⟩ := hanswers
  obtain ⟨-, rfl⟩ := interruptCycle_next ht
  exact ht

/-- A run under way that neither ends nor is capped services the interrupt that is pending (R273). -/
theorem step_of_interruptShape (hrun : s.status = .running) (hdone : isDone (hostAction s) = false)
    (hcap : isCapped (hostAction s) = false) (hs : interruptShape s t) :
    step { xlen := xlen, core := s } = .next { xlen := xlen, core := t } := by
  obtain ⟨hp, hk, rfl⟩ := hs
  have hcycle := interruptCycle_eq (s := hostAction s) (by simpa using hk)
  have hstep : step { xlen := xlen, core := s } = ofWidth (serviceCycle (hostAction s)) := by
    simp [step, tick, loopBody, cycle, hrun, hdone, hcap, hp]
  rw [hstep, serviceCycle, hcycle, hostAction_frame]
  rfl

end Shapes

/-- Settles O32: the state of an interrupt cycle, of which the controller ends as it began. -/
theorem interruptCycleNetEffect : Obligations.InterruptCycleNetEffect := by
  intro xlen s hrun hdone hcap hready hrest hk
  have hp : interruptPending (hostAction s) = true := by simp [interruptPending, hready, hrest]
  rw [step_of_interruptShape hrun hdone hcap ⟨hp, hk, rfl⟩, ← hrest]

/-- Settles O33: Execute comes after Write-back and Memory-access, which write neither the latches ID, EX and IF nor PC, Z
and `cycles`. -/
theorem negativeShiftEndsRun : Obligations.NegativeShiftEndsRun := by
  intro xlen s s₁ s₂ d rd a b va vb hrun h₁ h₂ hd hi hv hneg
  obtain ⟨_, _, _, f₁, -⟩ := writeBackStage_frame h₁
  obtain ⟨_, _, _, _, _, f₂, hcycles₂, -⟩ := memoryStage_frame h₂
  have hid : s₂.idL = s.idL := by rw [f₂, f₁, hostAction_idL]
  have hcycles : s₂.metrics.cycles = s.metrics.cycles := by rw [f₂, hcycles₂, f₁, hostAction_metrics]
  have hraise := executeStage_negative_shift (hid.trans hd) hi hv hneg
  have hstep := step_of_executeRaiseShape hrun ⟨s₁, s₂, _, _, h₁, h₂, hraise, rfl, rfl⟩
  rw [hcycles] at hstep
  refine ⟨hstep, hid, ?_, ?_, ?_, ?_, hcycles⟩
  · rw [f₂, f₁, hostAction_exL]
  · rw [f₂, f₁, hostAction_ifL]
  · rw [f₂, f₁, hostAction_pc]
  · rw [f₂, f₁, hostAction_z]

/-- Settles O34: Memory-access comes after Write-back, which writes the registers and the latch WB alone. -/
theorem addressOutOfRangeEndsRun : Obligations.AddressOutOfRangeEndsRun := by
  intro xlen s s₁ e w hrun h₁ he hop hw hrange
  obtain ⟨_, _, _, f₁, -⟩ := writeBackStage_frame h₁
  have hex : s₁.exL = s.exL := by rw [f₁, hostAction_exL]
  have hparams : s₁.params = s.params := by rw [f₁, hostAction_params]
  have hmetrics : s₁.metrics = s.metrics := by rw [f₁, hostAction_metrics]
  have hraise := memoryStage_out_of_range (hex.trans he) hop hw (by rwa [hparams])
  have hstep := step_of_memoryRaiseShape hrun ⟨s₁, _, _, h₁, hraise, rfl, rfl⟩
  rw [hmetrics] at hstep
  refine ⟨hstep, ?_, hex, ?_, ?_, ?_, ?_, ?_, ?_, hmetrics⟩
  · rw [f₁, hostAction_memL]
  · rw [f₁, hostAction_idL]
  · rw [f₁, hostAction_ifL]
  · rw [f₁, hostAction_pc]
  · rw [f₁, hostAction_z]
  · rw [f₁, hostAction_main]
  · rw [f₁, hostAction_cache]

/-! ### The interrupt controller (R272) -/

/-- No stage function writes the controller; an interrupt cycle leaves it in Normal with no saved PC. -/
theorem step_istate {s t : CoreState xlen} (h : step { xlen := xlen, core := s } = .next { xlen := xlen, core := t }) :
    t.istate = s.istate ∨ t.istate = { mode := .normal, savedPC := none } := by
  rcases step_shapes_core h with ⟨-, rfl⟩ | ⟨-, r, -, rfl⟩ | ⟨-, -, ⟨-, -, rfl⟩ | hc | hm | he⟩
  · exact .inl rfl
  · exact .inl (hostAction_istate s)
  · exact .inr rfl
  · obtain ⟨s₁, s₂, s₃, s₄, s₅, h₁, h₂, h₃, h₄, h₅, rfl⟩ := hc
    rw [hostAction_frame] at h₁
    obtain ⟨_, _, _, rfl, -⟩ := writeBackStage_frame h₁
    obtain ⟨_, _, _, _, _, rfl, -⟩ := memoryStage_frame h₂
    obtain ⟨_, _, _, rfl, -⟩ := executeStage_frame h₃
    obtain ⟨_, _, _, _, _, rfl, -⟩ := decodeStage_frame h₄
    obtain ⟨_, _, _, rfl, -⟩ := fetchStage_frame h₅
    exact .inl rfl
  · obtain ⟨s₁, f, r, h₁, -, -, rfl⟩ := hm
    rw [hostAction_frame] at h₁
    obtain ⟨_, _, _, rfl, -⟩ := writeBackStage_frame h₁
    exact .inl rfl
  · obtain ⟨s₁, s₂, f, r, h₁, h₂, -, -, rfl⟩ := he
    rw [hostAction_frame] at h₁
    obtain ⟨_, _, _, rfl, -⟩ := writeBackStage_frame h₁
    obtain ⟨_, _, _, _, _, rfl, -⟩ := memoryStage_frame h₂
    exact .inl rfl

/-- Settles O51: both outcomes of `step_istate` are the rest the step began with. -/
theorem controllerRestsBetweenCycles : Obligations.ControllerRestsBetweenCycles := by
  intro xlen s t hrest h
  rcases step_istate h with hsame | hnormal
  · exact hsame.trans hrest
  · exact hnormal

end Sys2Proof.Machine

/-! A well-formed state always has a next state (60_exceptions.md R260, "nothing else raises"): each stage function of a
state that fits answers, or raises one of the two faults the spec knows. -/

namespace Sys2Proof

open Sys2Proof.Machine

variable {xlen numRegs idx : Nat}

/-! ### What validation promises of the program (30_encoding.md R111) -/

/-- Every element of a program with no static fault decodes. -/
theorem decodeItem_ok_of_no_staticFault {prog : List (ProgItem xlen)} {k : Nat} {item : ProgItem xlen}
    (h : firstStaticFault numRegs idx prog = none) (hk : prog[k]? = some item) :
    ∃ i, decodeItem numRegs (idx + k) item = .ok i := by
  induction prog generalizing idx k with
  | nil => cases hk
  | cons p ps ih =>
    rw [firstStaticFault] at h
    split at h
    · cases h
    · rename_i i hi
      cases k with
      | zero =>
        cases hk
        exact ⟨i, hi⟩
      | succ k =>
        rw [← Nat.succ_add_eq_add_succ]
        exact ih h hk

/-! ### The registers and the result of a well-formed instruction (30_encoding.md R108, R110) -/

section Instruction

variable {i : Instr} {k : Nat}

theorem mem_operands_of_destOf (h : destOf i = some k) : .reg k ∈ i.operands := by
  cases i
  case add | sub | mul | and | shl | mov | load =>
    cases h
    exact List.mem_cons_self
  all_goals cases h

theorem mem_operands_of_srcsOf {o : Operand} (h : o ∈ srcsOf i) : o ∈ i.operands := by
  cases i
  case add | sub | mul | and | shl | mov | load => exact List.mem_cons_of_mem _ h
  case store | cmp => exact h
  all_goals cases h

/-- The register a well-formed instruction writes exists. -/
theorem destOf_lt (hwf : i.wf xlen numRegs = true) (h : destOf i = some k) : k < numRegs := by
  simpa [Operand.wf] using i.wf_iff_operands.mp hwf _ (mem_operands_of_destOf h)

theorem srcsOf_wf (hwf : i.wf xlen numRegs = true) : ∀ o ∈ srcsOf i, o.wf xlen numRegs = true :=
  fun o ho => i.wf_iff_operands.mp hwf o (mem_operands_of_srcsOf ho)

/-- An instruction with a destination carries a result to write there. -/
theorem carriesResult_of_destOf (h : destOf i = some k) : carriesResult i = true := by
  cases i
  case add | sub | mul | and | shl | mov | load => rfl
  all_goals cases h

end Instruction

end Sys2Proof

namespace Sys2Proof.Machine

open Sys2Proof

variable {xlen : Nat}

/-! ### What an entry that fits holds -/

section Entries

variable {s : CoreState xlen} {e : ExEntry xlen} {k : Nat}

theorem wf_of_fetchedFrom {idx : Nat} {i : Instr} (h : fetchedFrom s idx i = true) : i.wf xlen s.params.numRegs = true :=
  (Bool.and_eq_true_iff.mp h).1

theorem exFits_iff (s : CoreState xlen) (e : ExEntry xlen) : exFits s e = true ↔ fetchedFrom s e.idx e.instr = true ∧
    e.dest = destOf e.instr ∧ e.result.isSome = carriesResult e.instr ∧ e.sval.isSome = isStore e.instr ∧
    isJmp e.instr = false := by
  simp [exFits, and_assoc]

theorem idFits_iff (s : CoreState xlen) (d : IdEntry xlen) : idFits s d = true ↔ fetchedFrom s d.idx d.instr = true ∧
    d.dest = destOf d.instr ∧ d.srcs = srcsOf d.instr ∧ d.vals.length = d.srcs.length ∧
    d.target = (targetOf d.instr).map (word xlen) ∧ d.hazard = false ∧ isJmp d.instr = false := by
  simp [idFits, and_assoc]

/-- An entry with a destination has the register it goes to and the word that goes there. -/
theorem exFits_dest (he : exFits s e = true) (hk : e.dest = some k) :
    destOf e.instr = some k ∧ k < s.params.numRegs ∧ ∃ w, e.result = some w := by
  obtain ⟨hfetched, hdest, hresult, -, -⟩ := (exFits_iff s e).mp he
  have hinstr := hdest.symm.trans hk
  rw [carriesResult_of_destOf hinstr] at hresult
  exact ⟨hinstr, destOf_lt (wf_of_fetchedFrom hfetched) hinstr, Option.isSome_iff_exists.mp hresult⟩

end Entries

/-! ### Operand resolution never breaks (40_pipeline.md R136) -/

section Resolution

variable {s : CoreState xlen} {k : Nat}

theorem noWriter_or_writer (k : Nat) (l : Option (ExEntry xlen)) :
    noWriter k l ∨ ∃ e, l = some e ∧ e.dest = some k := by
  by_cases h : ∃ e, l = some e ∧ e.dest = some k
  · exact .inr h
  · exact .inl fun e he hd => h ⟨e, he, hd⟩

/-- A register that exists is forwarded from the first latch that holds a writer, stalls on a LOAD in EX, or is read from
the register file. -/
theorem CoreState.Fits.resolve_reg_stall_or_value (hs : s.Fits) (hk : k < s.params.numRegs) :
    resolve (.reg k) s = .stall ∨ ∃ w, resolve (.reg k) s = .value w := by
  rcases noWriter_or_writer k s.wbL with hwb | ⟨e, he, hd⟩
  · rcases noWriter_or_writer k s.memL with hmem | ⟨e, he, hd⟩
    · rw [resolve_of_no_writer_in_MEM hwb hmem, resolveFromEX]
      rcases noWriter_or_writer k s.exL with hex | ⟨e, he, hd⟩
      · rw [writerOf_of_noWriter hex, readRegFile, List.getElem?_eq_getElem (hs.regs ▸ hk)]
        exact .inr ⟨_, rfl⟩
      · obtain ⟨-, -, w, hw⟩ := exFits_dest (hs.exL e he) hd
        rw [writerOf_of_dest he hd]
        by_cases hload : isLoadEntry e = true
        · exact .inl (if_pos hload)
        · exact .inr ⟨w, (if_neg hload).trans (forwarded_of_result hw)⟩
    · obtain ⟨-, -, w, hw⟩ := exFits_dest (hs.memL e he) hd
      exact .inr ⟨w, resolve_from_MEM hwb he hd hw⟩
  · obtain ⟨-, -, w, hw⟩ := exFits_dest (hs.wbL e he) hd
    exact .inr ⟨w, resolve_from_WB he hd hw⟩

theorem CoreState.Fits.resolve_stall_or_value (hs : s.Fits) {o : Operand} (ho : o.wf xlen s.params.numRegs = true) :
    resolve o s = .stall ∨ ∃ w, resolve o s = .value w := by
  cases o with
  | imm v => exact .inr ⟨_, rfl⟩
  | reg k => exact hs.resolve_reg_stall_or_value (by simpa [Operand.wf] using ho)

theorem CoreState.Fits.resolveAll_stall_or_values (hs : s.Fits) {os : List Operand}
    (hos : ∀ o ∈ os, o.wf xlen s.params.numRegs = true) :
    resolveAll os s = .stall ∨ ∃ ws, resolveAll os s = .values ws := by
  induction os with
  | nil => exact .inr ⟨[], rfl⟩
  | cons o os ih =>
    obtain ⟨ho, hos'⟩ := List.forall_mem_cons.mp hos
    rw [resolveAll]
    rcases hs.resolve_stall_or_value ho with hstall | ⟨w, hw⟩
    · rw [hstall]
      exact .inl rfl
    · rw [hw]
      rcases ih hos' with hstall | ⟨ws, hws⟩
      · rw [hstall]
        exact .inl rfl
      · rw [hws]
        exact .inr ⟨_, rfl⟩

end Resolution

/-! ### Each stage function of a state that fits -/

/-- The outcome is a next state, or a fault the spec has a record for. -/
def answersOrRaises (s : CoreState xlen) (o : Result) : Prop :=
  (∃ t : CoreState xlen, o = .next { xlen := xlen, core := t }) ∨ ∃ f r, o = .fault f ∧ dynamicRecord f s = some r

section StageFunctions

variable {s : CoreState xlen}

theorem decodeStage_stall {f : IfEntry} (hf : s.ifL = some f) (ht : targetOf f.instr = none)
    (hstall : resolveAll (srcsOf f.instr) s = .stall) :
    decodeStage s = .next { xlen := xlen, core := stall ((s.setFetchEn true).atStage .decode) } := by
  rw [decodeStage_eq, hf, Option.map_some, Option.elim_some]
  exact exec_decode_stall rfl hf ht (by simpa [CoreState.atStage, CoreState.setFetchEn] using hstall)

theorem CoreState.Fits.writeBackStage_answers (hs : s.Fits) :
    ∃ t : CoreState xlen, Machine.writeBackStage s = .next { xlen := xlen, core := t } := by
  cases hm : s.memL with
  | none => exact ⟨_, writeBackStage_empty hm⟩
  | some m =>
    have hfits := hs.memL m hm
    obtain ⟨-, hdest, -⟩ := (exFits_iff s m).mp hfits
    cases hk : m.dest with
    | none => exact ⟨_, writeBackStage_retires hm (hdest.symm.trans hk)⟩
    | some k =>
      obtain ⟨hinstr, hlt, v, hv⟩ := exFits_dest hfits hk
      exact ⟨_, writeBackStage_commits hm hinstr hk hv (hs.regs ▸ hlt)⟩

/-- An access whose address exists answers, one whose address does not raises `AddressOutOfRange` (20_memory.md R76). -/
theorem CoreState.Fits.memoryStage_answersOrRaises (hs : s.Fits) : answersOrRaises s (Machine.memoryStage s) := by
  cases he : s.exL with
  | none => exact .inl ⟨_, memoryStage_empty he⟩
  | some e =>
    have hat : (s.atStage .memoryAccess).exL = some e := he
    obtain ⟨-, -, hresult, hsval, -⟩ := (exFits_iff s e).mp (hs.exL e he)
    rw [memoryStage_eq, he, Option.map_some, Option.elim_some]
    cases hi : e.instr
    case load rd a =>
      obtain ⟨w, hw⟩ := Option.isSome_iff_exists.mp (hresult.trans (by rw [hi]; rfl))
      rw [exec_load_memory rfl hat]
      cases hok : addressOk (s.atStage .memoryAccess) (sx w) with
      | true => exact .inl ⟨_, congrArg ofWidth (accessLoad_in_range hw hok)⟩
      | false => exact .inr ⟨_, _, congrArg ofWidth (accessLoad_out_of_range hw hok), rfl⟩
    case store rs a =>
      obtain ⟨w, hw⟩ := Option.isSome_iff_exists.mp (hresult.trans (by rw [hi]; rfl))
      obtain ⟨v, hv⟩ := Option.isSome_iff_exists.mp (hsval.trans (by rw [hi]; rfl))
      rw [exec_store_memory rfl hat]
      cases hok : addressOk (s.atStage .memoryAccess) (sx w) with
      | true => exact .inl ⟨_, congrArg ofWidth (accessStore_in_range hw hv hok)⟩
      | false => exact .inr ⟨_, _, congrArg ofWidth (accessStore_out_of_range hw hv hok), rfl⟩
    all_goals exact .inl ⟨_, exec_memory_pass rfl hat nofun nofun⟩

/-- With one value a source and no JMP in ID, Execute can raise `NegativeShift` alone (41_arithmetic.md R186). -/
theorem CoreState.Fits.executeStage_answersOrRaises (hs : s.Fits) : answersOrRaises s (Machine.executeStage s) := by
  cases hd : s.idL with
  | none => exact .inl ⟨_, executeStage_empty hd⟩
  | some d =>
    have hat : (s.atStage .execute).idL = some d := hd
    obtain ⟨-, -, hsrcs, hvals, -, -, hjmp⟩ := (idFits_iff s d).mp (hs.idL d hd)
    rw [hsrcs] at hvals
    rw [executeStage_eq, hd, Option.map_some, Option.elim_some]
    cases hi : d.instr
    all_goals rw [hi] at hvals hjmp
    case nop | jz | jnz | je => exact .inl ⟨_, exec_execute_no_sources rfl hat rfl rfl⟩
    case jmp => cases hjmp
    case mov rd a =>
      obtain ⟨va, hv⟩ := List.length_eq_one_iff.mp hvals
      exact .inl ⟨_, exec_execute_mov rfl hat hv rd a⟩
    case load rd a =>
      obtain ⟨va, hv⟩ := List.length_eq_one_iff.mp hvals
      exact .inl ⟨_, exec_execute_load rfl hat hv rd a⟩
    case store rs a =>
      obtain ⟨vs, va, hv⟩ := List.length_eq_two.mp hvals
      exact .inl ⟨_, exec_execute_store rfl hat hv rs a⟩
    case cmp a b =>
      obtain ⟨va, vb, hv⟩ := List.length_eq_two.mp hvals
      exact .inl ⟨_, exec_execute_cmp_values rfl hat hv a b⟩
    case add | sub | mul | and =>
      obtain ⟨va, vb, hv⟩ := List.length_eq_two.mp hvals
      exact .inl ⟨_, exec_execute_arithmetic rfl hat hv rfl nofun⟩
    case shl rd a b =>
      obtain ⟨va, vb, hv⟩ := List.length_eq_two.mp hvals
      rcases lt_or_ge (sx vb) 0 with hneg | hamount
      · exact .inr ⟨_, _, exec_execute_shl_negative rfl hat hv hneg rd a b, rfl⟩
      · exact .inl ⟨_, exec_execute_arithmetic rfl hat hv rfl fun _ => hamount⟩

theorem CoreState.Fits.decodeStage_answers (hs : s.Fits) :
    ∃ t : CoreState xlen, Machine.decodeStage s = .next { xlen := xlen, core := t } := by
  cases hf : s.ifL with
  | none => exact ⟨_, decodeStage_empty hf⟩
  | some f =>
    cases ht : targetOf f.instr with
    | none =>
      rcases hs.resolveAll_stall_or_values (srcsOf_wf (wf_of_fetchedFrom (hs.ifL f hf))) with hstall | ⟨ws, hws⟩
      · exact ⟨_, decodeStage_stall hf ht hstall⟩
      · exact ⟨_, decodeStage_sources hf ht hws⟩
    | some w =>
      cases hc : branchTaken f.instr ((s.setFetchEn true).atStage .decode) with
      | true => exact ⟨_, decodeStage_taken hf ht hc⟩
      | false => exact ⟨_, decodeStage_not_taken hf ht hc⟩

/-- In a run under way the program was validated, so the element at PC decodes. -/
theorem CoreState.Fits.recordAtPC_ok (hs : s.Fits) (hrun : s.status = .running) :
    recordAtPC s = none ∨ ∃ i, recordAtPC s = some (.ok i) := by
  have hvalid : firstStaticFault s.params.numRegs 0 s.prog = none := by
    simpa [programFits, hrun] using (Bool.and_eq_true_iff.mp hs.program).2
  unfold recordAtPC
  split
  · split
    · rename_i p hp
      obtain ⟨i, hi⟩ := decodeItem_ok_of_no_staticFault hvalid hp
      rw [Nat.zero_add] at hi
      exact .inr ⟨i, congrArg some hi⟩
    · exact .inl rfl
  · exact .inl rfl

theorem CoreState.Fits.fetchStage_answers (hs : s.Fits) (hrun : s.status = .running) :
    ∃ t : CoreState xlen, Machine.fetchStage s = .next { xlen := xlen, core := t } := by
  cases hen : s.signals.fetchEn with
  | false => exact ⟨_, fetchStage_held hen⟩
  | true =>
    rcases hs.recordAtPC_ok hrun with hnone | ⟨i, hi⟩
    · exact ⟨_, fetchStage_bubble hen hnone⟩
    · exact ⟨_, fetchStage_record hen hi⟩

end StageFunctions

/-! ### The step -/

section Step

variable {s : CoreState xlen}

/-- No stage function ends the run: only a raise does. -/
theorem status_of_stages {s₁ s₂ s₃ s₄ : CoreState xlen}
    (h₁ : writeBackStage (hostAction s) = .next { xlen := xlen, core := s₁ })
    (h₂ : memoryStage s₁ = .next { xlen := xlen, core := s₂ })
    (h₃ : executeStage s₂ = .next { xlen := xlen, core := s₃ })
    (h₄ : decodeStage s₃ = .next { xlen := xlen, core := s₄ }) : s₄.status = s.status := by
  obtain ⟨_, _, _, f₁, -⟩ := writeBackStage_frame h₁
  obtain ⟨_, _, _, _, _, f₂, -⟩ := memoryStage_frame h₂
  obtain ⟨_, _, _, f₃, -⟩ := executeStage_frame h₃
  obtain ⟨_, _, _, _, _, f₄, -⟩ := decodeStage_frame h₄
  rw [f₄, f₃, f₂, f₁, hostAction_status]

/-- The cycle of a state that fits runs its five stages, or a raise in Memory-access or in Execute ends it. -/
theorem CoreState.Fits.stages_shape (hs : s.Fits) (hrun : s.status = .running) :
    ∃ t, Machine.stagesShape s t ∨ Machine.memoryRaiseShape s t ∨ Machine.executeRaiseShape s t := by
  obtain ⟨s₁, h₁⟩ := hs.hostAction.writeBackStage_answers
  have hs₁ := hs.hostAction.writeBackStage h₁
  rcases hs₁.memoryStage_answersOrRaises with ⟨s₂, h₂⟩ | ⟨f, r, hf, hr⟩
  · have hs₂ := hs₁.memoryStage h₂
    rcases hs₂.executeStage_answersOrRaises with ⟨s₃, h₃⟩ | ⟨f, r, hf, hr⟩
    · have hs₃ := hs₂.executeStage h₃
      obtain ⟨s₄, h₄⟩ := hs₃.decodeStage_answers
      have hs₄ := hs₃.decodeStage h₄
      obtain ⟨s₅, h₅⟩ := hs₄.fetchStage_answers ((status_of_stages h₁ h₂ h₃ h₄).trans hrun)
      exact ⟨_, .inl ⟨s₁, s₂, s₃, s₄, s₅, h₁, h₂, h₃, h₄, h₅, rfl⟩⟩
    · exact ⟨_, .inr (.inr ⟨s₁, s₂, f, r, h₁, h₂, hf, hr, rfl⟩)⟩
  · exact ⟨_, .inr (.inl ⟨s₁, f, r, h₁, hf, hr, rfl⟩)⟩

/-- A cycle that runs the stages answers. -/
theorem CoreState.Fits.step_of_runsStages (hs : s.Fits) (h : runsStages s = true) :
    ∃ t : CoreState xlen, Machine.step { xlen := xlen, core := s } = .next { xlen := xlen, core := t } := by
  obtain ⟨hrun, -, -, -⟩ := (runsStages_iff s).mp h
  obtain ⟨t, hc | hm | he⟩ := hs.stages_shape hrun
  · exact ⟨t, step_of_stagesShape h hc⟩
  · exact ⟨t, step_of_memoryRaiseShape h hm⟩
  · exact ⟨t, step_of_executeRaiseShape h he⟩

/-- The register the interrupt routine writes exists (00_scope.md R7). -/
theorem CoreState.Fits.sentinelReg_lt (hs : s.Fits) : s.params.sentinelReg < s.regs.length := by
  have hlt : s.params.sentinelReg < s.params.numRegs := by
    simpa using (Bool.and_eq_true_iff.mp hs.params).2
  exact hs.regs ▸ hlt

end Step

/-- Settles O54: a run that has ended, or ends before a cycle, answers at once; an interrupt cycle finds its register, and
a cycle of the stages runs through or ends in one of the spec's two faults. -/
theorem wellFormedStateAlwaysSteps : Obligations.WellFormedStateAlwaysSteps := by
  intro xlen s hwf
  obtain ⟨hs, -⟩ := (CoreState.wf_iff s).mp hwf
  by_cases hrun : s.status = .running
  · by_cases hdone : isDone (hostAction s) = true
    · exact ⟨(hostAction s).setStatus .done, by simp [step, tick, loopBody, hrun, hdone]⟩
    by_cases hcap : isCapped (hostAction s) = true
    · exact ⟨(hostAction s).setStatus .capped, by simp [step, tick, loopBody, hrun, hdone, hcap]⟩
    rw [Bool.not_eq_true] at hdone hcap
    cases hp : interruptPending (hostAction s) with
    | true => exact ⟨_, step_of_interruptShape hrun hdone hcap ⟨hp, hs.sentinelReg_lt, rfl⟩⟩
    | false => exact hs.step_of_runsStages ((runsStages_iff s).mpr ⟨hrun, hdone, hcap, hp⟩)
  · refine ⟨s, ?_⟩
    cases hend : s.status with
    | running => exact absurd hend hrun
    | _ => rw [step, tick, hend]

end Sys2Proof.Machine

/-! The two ends of a run before a cycle and the rest after it (70_reset_and_hazards.md R304 to R306, R309), and reset from
legal inputs, which meets the invariants that every step keeps (R300). -/

namespace Sys2Proof.Machine

open Sys2Proof

variable {xlen : Nat}

/-! ### The run loop (R304) -/

section RunLoop

variable {s : CoreState xlen}

theorem isDone_iff (s : CoreState xlen) : isDone s = true ↔
    s.ifL = none ∧ s.idL = none ∧ s.exL = none ∧ s.memL = none ∧ s.wbL = none ∧ s.dev.ready = false ∧
      ¬ (0 ≤ sx s.pc ∧ sx s.pc < s.prog.length) := by
  rw [← pcInBounds_iff]
  simp [isDone, and_assoc]

theorem isCapped_iff (s : CoreState xlen) : isCapped s = true ↔ s.maxCycles ≤ s.metrics.cycles := by
  simp [isCapped]

theorem step_of_running (hrun : s.status = .running) :
    step { xlen := xlen, core := s } = loopBody (hostAction s) := by
  rw [step, tick, hrun]

theorem step_of_not_running (hend : s.status ≠ .running) :
    step { xlen := xlen, core := s } = .next { xlen := xlen, core := s } := by
  rw [step, tick]
  cases hs : s.status with
  | running => exact absurd hs hend
  | done | capped | faulted r | refused r => rfl

theorem loopBody_of_done (hdone : isDone s = true) :
    loopBody s = .next { xlen := xlen, core := s.setStatus .done } :=
  if_pos hdone

theorem loopBody_of_capped (hdone : ¬ isDone s = true) (hcap : isCapped s = true) :
    loopBody s = .next { xlen := xlen, core := s.setStatus .capped } :=
  (if_neg hdone).trans (if_pos hcap)

end RunLoop

/-- Settles O35: the natural end comes first in the loop's body, the cap second, and a cycle only after both. -/
theorem runEndsDoneBeforeCapped : Obligations.RunEndsDoneBeforeCapped := by
  rintro xlen s _ hrun rfl
  rw [← isDone_iff, step_of_running hrun]
  exact ⟨loopBody_of_done, fun hdone hcap => loopBody_of_capped hdone ((isCapped_iff _).mpr hcap)⟩

/-- Settles O36: each of the four ends of a run answers the state it was given. -/
theorem ticksAfterTheEndChangeNothing : Obligations.TicksAfterTheEndChangeNothing :=
  fun _ _ => step_of_not_running

/-! ### Reset from legal inputs (R300) -/

/-- Main holds no address but those of `init_mem`. -/
theorem addressesBelow_initialMain {n : Nat} :
    ∀ {l : List (Nat × Word xlen)}, l.all (fun c => decide (c.1 < n)) = true → addressesBelow n (initialMain l) = true
  | [], _ => rfl
  | (a, v) :: rest, h => by
    obtain ⟨ha, hrest⟩ := Bool.and_eq_true_iff.mp (List.all_cons.symm.trans h)
    exact addressesBelow_writeMain (addressesBelow_initialMain hrest) (of_decide_eq_true ha)

/-- The status validation gives a program fits it: it runs only when no element of it is refused (R300 step 2). -/
theorem programFits_of_loadStatus {s : CoreState xlen} (hlen : progLenOk xlen s.prog.length = true)
    (hstatus : s.status = loadStatus s.params s.prog) : programFits s = true := by
  unfold loadStatus at hstatus
  split at hstatus
  next hfault => simp [programFits, hlen, hstatus]
  next hfault => simp [programFits, hlen, hstatus, hfault]

section Reset

variable {inp : RunInputs} (dev : Device inp.xlen)

/-- The latches are empty, and the registers, the cache and Main are built to the sizes of the parameters. -/
theorem assertReset_fits (hparams : inp.params.wf = true) (hlen : progLenOk inp.xlen inp.prog.length = true)
    (hmem : inp.initMem.all (fun c => decide (c.1 < inp.params.memSize)) = true) : (assertReset inp dev).Fits where
  params := hparams
  program := programFits_of_loadStatus hlen rfl
  regs := initialRegs_length _ _
  cache := List.length_replicate
  lines := fun l hl => by
    rw [List.eq_of_mem_replicate hl]
    exact List.length_replicate
  main := Memory.wf_initialMain inp.initMem
  addresses := addressesBelow_initialMain hmem
  ifL := nofun
  idL := nofun
  exL := nofun
  memL := nofun
  wbL := nofun
  istate := rfl

theorem assertReset_line_invalid (i : Nat) : (lineAt (assertReset inp dev) i).valid = false := by
  have hline : lineAt (assertReset inp dev) i = resetLine inp.params :=
    List.getElem?_getD_replicate_default_eq _ _ _
  rw [hline]
  rfl

theorem assertReset_withinBounds :
    withinBounds (assertReset inp dev).metrics (assertReset inp dev).maxCycles :=
  ⟨Nat.zero_le _, Nat.le_refl 0, Nat.le_refl 0⟩

end Reset

/-- Settles O11: reset builds a state that fits, with no valid line and every counter 0. -/
theorem resetFromLegalInputsIsSafe : Obligations.ResetFromLegalInputsIsSafe := by
  intro inp dev hparams hlen hmem
  refine ⟨(CoreState.wf_iff _).mpr ⟨assertReset_fits dev hparams hlen hmem, rfl⟩, ?_, ?_⟩
  · exact transparent_of_no_valid_line fun i _ => assertReset_line_invalid dev i
  · exact countersBounded_of_withinBounds (assertReset_withinBounds dev)

end Sys2Proof.Machine

/-! The rows of an opcode table (30_encoding.md R103, R106): the bits of an instruction's record word decode to the
instruction, for the decoder inverts the encoder. -/

namespace Sys2Proof

open Sys2Proof.Machine

/-- A record word is read back from its own bits by every row that is wide enough for it. -/
theorem recordWordOfBits_toNat {xlen nbits : Nat} (hbits : RW xlen ≤ nbits) (w : RecordWord xlen) :
    recordWordOfBits xlen nbits w.toNat = some w := by
  have hmod : w.toNat % 2 ^ nbits = w.toNat :=
    Nat.mod_eq_of_lt (Nat.lt_of_lt_of_le w.isLt (Nat.pow_le_pow_right Nat.two_pos hbits))
  rw [recordWordOfBits, hmod, if_pos w.isLt, BitVec.ofNat_toNat, BitVec.setWidth_eq]

/-- The row of a well-formed instruction's own word decodes to the instruction. -/
theorem decodeTableWord_of_encode {nbits bits : Nat} {i : Instr} (hbits : RW testXLEN ≤ nbits)
    (hwf : i.wf testXLEN Params.test.numRegs = true) (henc : (encode testXLEN i).toNat = bits) :
    decodeTableWord nbits bits = some i := by
  have hdecode : decodeWord Params.test.numRegs 0 (encode testXLEN i) = .ok i :=
    encodedInstructionDecodesBack testXLEN Params.test.numRegs 0 i (by decide) (by decide) hwf
  simp only [decodeTableWord, ← henc, recordWordOfBits_toNat hbits, hdecode]

/-- Settles O3: each of the seven words is the encoding of its row's instruction, so it decodes to that instruction. -/
theorem specEncodingsDecode : Obligations.SpecEncodingsDecode := by
  have hbits : RW testXLEN ≤ 112 := by decide
  refine ⟨?_, ?_, ?_, ?_, ?_, ?_, ?_⟩ <;> exact decodeTableWord_of_encode hbits rfl (by decide)

end Sys2Proof
